-- ==== Sys2Proof/Word.lean ====
section
/-! DEFINITION. The number and byte-sequence types of the spec's notation (00_scope R9). -/

namespace Sys2Proof

/-- R9: a `Byte` is a `U8`. -/
abbrev Byte := BitVec 8

/-- R9: a finite sequence of bytes, indexed from 0. Every string of the block is one (D13). -/
abbrev Bytes := List Byte

/-- R9: unsigned 32-bit integers, the words of SHA-1. -/
abbrev U32 := BitVec 32

/-- R9: signed 64-bit two's-complement integers, held as their bit pattern; the number is `toInt`. -/
abbrev S64 := BitVec 64

end Sys2Proof
end

