-- ==== Sys2Proof/Syntax.lean ====
section
/-! DEFINITION. The seven commands of 30_encoding R63, with the operands of R64. The pseudo-command CREATETOTP has
no packet (R80) and no row of the opcode table; it stands in Machine/CreateTotp.lean. -/

namespace Sys2Proof

/-- One constructor per row of the opcode table. -/
inductive Instr where
  /-- R94 -/
  | b32enc (data : Bytes)
  /-- R102 -/
  | ctrser (counter : S64)
  /-- R147 -/
  | hotp (key : Bytes) (counterBytes : Bytes)
  /-- R161 -/
  | setstep (seconds : S64)
  /-- R165 -/
  | stepidx
  /-- R168 -/
  | gentotp (key : Bytes) (stepOffset : S64)
  /-- R172 -/
  | verify (key : Bytes) (candidate : Bytes)
  deriving DecidableEq, Repr

/-- The opcode map's rows by name (R63). -/
inductive Opcode where
  | b32enc | ctrser | hotp | setstep | stepidx | gentotp | verify
  deriving DecidableEq, Repr

/-- The packet formats of R62. -/
inductive Format where
  | n | q | d | km | kc
  deriving DecidableEq, Repr

/-- Why a packet spells no command (R69). -/
inductive Reject where
  /-- R74: byte 0 selects no command. -/
  | illegalOpcode
  /-- R75: the empty packet, or a length that breaks R65. -/
  | malformed
  deriving DecidableEq, Repr

end Sys2Proof
end

