-- ==== Sys2Proof/Machine/Flags.lean ====
section
/-! DEFINITION. The block has no flags, no condition codes and no predicates (10_state R26). What a command reports
instead is the status byte of its response, an output and not state (30_encoding R67, 60_exceptions R191). -/

namespace Sys2Proof.Machine

/-- R67: the statuses of a response. -/
inductive Status where
  | ok
  | configError
  /-- R193: reserved; nothing in the block produces it. -/
  | invalidArgument
  | illegalOpcode
  | malformed
  deriving DecidableEq, Repr

/-- R67: the status codes. -/
def statusCode : Status → Byte
  | .ok => 0x00
  | .configError => 0x01
  | .invalidArgument => 0x02
  | .illegalOpcode => 0x80
  | .malformed => 0x81

/-- R69, R191: the status that answers a packet which spells no command. -/
def rejectStatus : Reject → Status
  | .illegalOpcode => .illegalOpcode
  | .malformed => .malformed

end Sys2Proof.Machine
end

