-- ==== Sys2Proof/Config.lean ====
section
/-! DEFINITION. The hard-wired parameters (00_scope R6, R7; 10_state R22), the one named open parameter of the
spec that a rule reads, and the two free values of the model. -/

namespace Sys2Proof.Config

/-- R6 `CTR_BYTES`: length of the serialised counter. -/
def ctrBytes : Nat := 8

/-- R6 `DIGEST_BYTES`. -/
def digestBytes : Nat := 20

/-- R6 `DT_NIBBLE_MASK`. -/
def dtNibbleMask : Byte := 0x0F

/-- R6 `DT_SIGN_MASK`. -/
def dtSignMask : U32 := 0x7FFFFFFF

/-- R6 `DIGITS`. -/
def digits : Nat := 6

/-- R6 `MODULUS`. -/
def modulus : Nat := 1000000

/-- R6 `DEFAULT_TIMESTEP`, seconds. -/
def defaultTimestep : S64 := 30

/-- R6 `WINDOW`: verification tolerance in steps, each direction. -/
def window : Nat := 1

/-- R6 `B32_ALPHABET`: `A` to `Z`, then `2` to `7`. -/
def b32Alphabet : Bytes :=
  (List.range 26).map (fun v => BitVec.ofNat 8 (0x41 + v))
    ++ (List.range 6).map (fun v => BitVec.ofNat 8 (0x32 + v))

/-- R7 `LEN_BITS` = 16: the longest operand a length field can carry. -/
def maxOperandBytes : Nat := 65535

/-- R7 `HMAC_BLOCK_BYTES`. -/
def hmacBlockBytes : Nat := 64

/-- The values of the open parameter `NEG_TIME_DIV` (R164, D7). -/
inductive NegTimeDiv where
  | floor
  | trunc
  deriving DecidableEq, Repr

/-- R164: "This spec takes the floor for all `now`"; 90_conflicts C3 chooses it. -/
def negTimeDiv : NegTimeDiv := .floor

/-- FREE VALUE (log entry 1): the value the clock port presents at the n-th sample when the state lists none.
R29: "A model takes each sample as a draw". -/
opaque clockDraw : Nat → S64

/-- FREE VALUE (log entry 2): what the step divider gives for a TIMESTEP that is not positive, of which R163
states nothing because R21 makes it impossible. -/
opaque stepOfIllegalTimestep : S64 → S64 → S64

end Sys2Proof.Config
end

