-- ==== Sys2Proof/Machine/Operands.lean ====
section
/-! DEFINITION. The operand forms: byte order, slices and the field types of 30_encoding R61, and the number
conversions of 00_scope R9. Every multi-byte integer is big-endian (20_memory R41). -/

namespace Sys2Proof.Machine

/-- R9 `s[i ..< j]`. -/
def slice (p : Bytes) (i j : Nat) : Bytes := (p.drop i).take (j - i)

/-- R9 `be_N(v)`: element i is `(v >> (8*(N−1−i))) & 0xFF`. -/
def be (n v : Nat) : Bytes := (List.range n).map fun k => BitVec.ofNat 8 (v >>> (8 * (n - 1 - k)))

/-- R9 `from_be(s)`: Σ s[i] * 2^(8*(len(s)−1−i)). -/
def fromBe : Bytes → Nat
  | [] => 0
  | b :: rest => b.toNat * 2 ^ (8 * rest.length) + fromBe rest

/-- R9 `rep(b, n)`. -/
def rep (b : Byte) (n : Nat) : Bytes := List.replicate n b

/-- R9 `toS64(u)`. -/
def toS64 (u : Nat) : S64 := BitVec.ofNat 64 u

/-- R9 `toU64(s)`. -/
def toU64 (c : S64) : Nat := c.toNat

/-- R9 `wrap64(i)`: the `S64` congruent to i modulo 2^64. -/
def wrap64 (k : Int) : S64 := BitVec.ofInt 64 k

/-- R61 `len16` at offset `at_`. -/
def len16 (p : Bytes) (at_ : Nat) : Nat := fromBe (slice p at_ (at_ + 2))

/-- R61 `s64` at offset `at_`. -/
def s64Field (p : Bytes) (at_ : Nat) : S64 := toS64 (fromBe (slice p at_ (at_ + 8)))

/-- R61 `bytes(n)` at offset `at_`. -/
def bytesField (p : Bytes) (at_ n : Nat) : Bytes := slice p at_ (at_ + n)

end Sys2Proof.Machine
end

