-- ==== Sys2Proof/Machine/State.lean ====
section
/-! DEFINITION. The state of the block (10_state R20, R21), the ports a step reads and writes (R28, R29, R30), the
state after reset (R34), and the reasons a step can stop. -/

namespace Sys2Proof.Machine

/-- What the host does to the block, one event at a time (70_reset R230). -/
inductive HostEvent where
  /-- R28: a command packet presented on the command port. -/
  | packet (p : Bytes)
  /-- R30: the reset input asserted; an event stands between two commands, so the engine is idle (R221). -/
  | rst
  deriving DecidableEq, Repr

/-- The architectural register, and the ports. -/
structure State where
  /-- R21: TIMESTEP, the one architectural register. -/
  timestep : S64
  /-- R28, R30: what the host has presented and the engine has not yet taken, oldest first. -/
  input : List HostEvent
  /-- R28, R231: the response packets emitted, oldest first. -/
  responses : List Bytes
  /-- R29, R231: the values the port `now` presents at the next samples, next first. -/
  nowPort : List S64
  /-- The model's own (log entry 1): how many samples have been taken. -/
  samples : Nat
  deriving DecidableEq, Repr

/-- R34, R220: TIMESTEP is 30, the engine is idle, no response is pending; the clock port has no reset value, so no
value of it is listed. -/
def State.reset : State where
  timestep := Config.defaultTimestep
  input := []
  responses := []
  nowPort := []
  samples := 0

/-- The machine has no fault: every packet is answered (60_exceptions R202), an error status "is not a fault of the
run" (70_reset R231), and the block accesses no memory (20_memory R40). Nobody raises one; safe. -/
inductive Fault where
  deriving DecidableEq, Repr

/-- Why the model gives an instruction no meaning. -/
inductive Refusal where
  /-- Raised by an arm of `exec` whose command is not modelled yet; safe. No arm is of that kind. -/
  | notModelled (mnemonic : String)
  deriving DecidableEq, Repr

end Sys2Proof.Machine
end

