-- ==== Sys2Proof/Machine/Ops.lean ====
section
/-! DEFINITION. The named operations over the state: responding, raising an error, the clock sample, the TIMESTEP
register, the reset event (00_scope R11, 60_exceptions R196, 10_state R21, R29, R30). -/

namespace Sys2Proof.Machine

/-- R66: the response packet of a status and a payload. -/
def responsePacket (st : Status) (payload : Bytes) : Bytes := statusCode st :: payload

/-- R11 `respond(status, payload)`: emit one response packet. -/
def respond (st : Status) (payload : Bytes) (s : State) : State :=
  { s with responses := s.responses ++ [responsePacket st payload] }

/-- R196, `raise E`: TAKING AN EXCEPTION. The response is the single status byte; nothing is saved, TIMESTEP is not
written, the clock is not sampled, no mode changes, and the engine accepts the next command. There is no return from
it (R198). -/
def raise (e : Status) (s : State) : State := respond e [] s

/-- R29: the value the clock port presents at the next sample: the next listed one, else a free value. -/
def nowValue (s : State) : S64 :=
  match s.nowPort with
  | v :: _ => v
  | [] => Config.clockDraw s.samples

/-- R29: one sample uses up one presented value. -/
def takeSample (s : State) : State :=
  { s with nowPort := s.nowPort.tail, samples := s.samples + 1 }

/-- R21: read TIMESTEP. -/
def readTimestep (s : State) : S64 := s.timestep

/-- R21: write TIMESTEP. -/
def writeTimestep (v : S64) (s : State) : State := { s with timestep := v }

/-- R30, R34: the effect of `rst` on an idle engine. The reset state of the block is TIMESTEP = 30 and idle; the
packets the host has yet to present, the responses it has received and the clock are not the block's. -/
def resetEngine (s : State) : State := writeTimestep Config.defaultTimestep s

/-- R69 `Refuse s`: answer a packet that spells no command. -/
def refusePacket (r : Reject) (s : State) : State := raise (rejectStatus r) s

/-- R28: the host presents a packet after those it has presented before. -/
def present (p : Bytes) (s : State) : State := { s with input := s.input ++ [.packet p] }

end Sys2Proof.Machine
end

