-- ==== Sys2Proof/Machine/Base32.lean ====
section
/-! DEFINITION. The Base32 encoder and command B32ENC (40_base32). -/

namespace Sys2Proof.Machine

/-- R90 `SYM(v)`: table lookup into the alphabet. -/
def b32Sym (v : Nat) : Byte := Config.b32Alphabet.getD v 0

/-- R92, the `while nbits ≥ 5` loop: emit the top five valid bits as long as there are five. `fuel` bounds the
iterations; `nbits` itself suffices. -/
def b32Drain (fuel : Nat) (acc : BitVec 12) (nbits : Nat) : Bytes × Nat :=
  match fuel with
  | 0 => ([], nbits)
  | fuel + 1 =>
    if 5 ≤ nbits then
      let (out, left) := b32Drain fuel acc (nbits - 5)
      (b32Sym ((acc >>> (nbits - 5)) &&& 0x1F).toNat :: out, left)
    else ([], nbits)

/-- R92, the whole loop from an accumulator and its count of valid bits: the bytes yet to be emitted. -/
def b32Loop (acc : BitVec 12) (nbits : Nat) : Bytes → Bytes
  | [] => if 0 < nbits then [b32Sym ((acc <<< (5 - nbits)) &&& 0x1F).toNat] else []
  | byte :: rest =>
    let acc1 : BitVec 12 := (acc <<< 8) ||| byte.setWidth 12
    let (out, left) := b32Drain (nbits + 8) acc1 (nbits + 8)
    out ++ b32Loop (acc1 &&& ((1 <<< left) - 1)) left rest

/-- R92 `B32(data)`. -/
def b32 (data : Bytes) : Bytes := b32Loop 0 0 data

/-- R91, R93: bit k of the input stream: byte 0 first, most significant bit first, zeros after the end. -/
def b32StreamBit (data : Bytes) (k : Nat) : Bool := (data.getD (k / 8) 0).getMsbD (k % 8)

/-- R93: the number whose five bits, most significant first, are bits 5j to 5j+4 of the stream. -/
def b32Group (data : Bytes) (j : Nat) : Nat :=
  16 * (b32StreamBit data (5 * j)).toNat + 8 * (b32StreamBit data (5 * j + 1)).toNat
    + 4 * (b32StreamBit data (5 * j + 2)).toNat + 2 * (b32StreamBit data (5 * j + 3)).toNat
    + (b32StreamBit data (5 * j + 4)).toNat

/-- R93: the closed form, `ceil(8n/5)` symbols (R181 gives the ceiling as a floor division). -/
def b32Closed (data : Bytes) : Bytes :=
  (List.range ((8 * data.length + 4) / 5)).map fun j => b32Sym (b32Group data j)

/-- R94: command B32ENC. -/
def execB32enc (data : Bytes) (s : State) : Host.Outcome State Fault Refusal :=
  .next (respond .ok (b32 data) s)

end Sys2Proof.Machine
end

