-- ==== Sys2Proof/Machine/Sha1.lean ====
section
/-! DEFINITION. The unit function SHA1 (42_sha1_hmac R110 to R117). It has no command of its own. -/

namespace Sys2Proof.Machine

/-- Five 32-bit words: the chaining value `H0`..`H4` and the round variables `a`..`e` (10_state R31). -/
structure Five where
  a : U32
  b : U32
  c : U32
  d : U32
  e : U32
  deriving DecidableEq, Repr

/-- R111: the initial chaining value. -/
def sha1Init : Five := ⟨0x67452301, 0xEFCDAB89, 0x98BADCFE, 0x10325476, 0xC3D2E1F0⟩

/-- R112: `z = (55 − L) mod 64`, the least non-negative z with (L + 1 + z) mod 64 = 56. -/
def sha1PadZeros (len : Nat) : Nat := (55 + 64 - len % 64) % 64

/-- R112: the padded message. -/
def sha1Pad (msg : Bytes) : Bytes :=
  msg ++ ([0x80] ++ rep 0x00 (sha1PadZeros msg.length) ++ be 8 (8 * msg.length))

/-- R10 `ROTL_n(x)`. -/
def rotl (n : Nat) (x : U32) : U32 := (x <<< n) ||| (x >>> (32 - n))

/-- R113: choose, parity, majority, parity. -/
def sha1F (t : Nat) (b c d : U32) : U32 :=
  if t ≤ 19 then (b &&& c) ||| (~~~b &&& d)
  else if t ≤ 39 then b ^^^ c ^^^ d
  else if t ≤ 59 then (b &&& c) ||| (b &&& d) ||| (c &&& d)
  else b ^^^ c ^^^ d

/-- R114: the round constants. -/
def sha1K (t : Nat) : U32 :=
  if t ≤ 19 then 0x5A827999
  else if t ≤ 39 then 0x6ED9EBA1
  else if t ≤ 59 then 0x8F1BBCDC
  else 0xCA62C1D6

/-- R115: the sixteen big-endian words of a block. -/
def sha1Words (blk : Bytes) : List U32 :=
  (List.range 16).map fun t => BitVec.ofNat 32 (fromBe (slice blk (4 * t) (4 * t + 4)))

/-- R115: `n` more words of the schedule; `w` holds the words so far, newest first, so that `W[t−3]`, `W[t−8]`,
`W[t−14]`, `W[t−16]` are its elements 2, 7, 13, 15. -/
def sha1Extend : Nat → List U32 → List U32
  | 0, w => w
  | n + 1, w => sha1Extend n (rotl 1 (w.getD 2 0 ^^^ w.getD 7 0 ^^^ w.getD 13 0 ^^^ w.getD 15 0) :: w)

/-- R115: the schedule `W[0..79]`. -/
def sha1Schedule (blk : Bytes) : List U32 := (sha1Extend 64 (sha1Words blk).reverse).reverse

/-- R115: one round. -/
def sha1Round (t : Nat) (w : U32) : Five → Five
  | ⟨a, b, c, d, e⟩ => ⟨rotl 5 a + sha1F t b c d + e + sha1K t + w, a, rotl 30 b, c, d⟩

/-- R115: the rounds from round t on, one for each word of the schedule that is left. -/
def sha1Rounds (t : Nat) : List U32 → Five → Five
  | [], r => r
  | w :: ws, r => sha1Rounds (t + 1) ws (sha1Round t w r)

/-- R115: `+32` word by word. -/
def fiveAdd : Five → Five → Five
  | ⟨a, b, c, d, e⟩, ⟨a', b', c', d', e'⟩ => ⟨a + a', b + b', c + c', d + d', e + e'⟩

/-- R115: processing one 64-byte block. -/
def sha1Block (h : Five) (blk : Bytes) : Five := fiveAdd h (sha1Rounds 0 (sha1Schedule blk) h)

/-- R116: the first `n` blocks of the padded message, in order. -/
def sha1Blocks : Nat → Five → Bytes → Five
  | 0, h, _ => h
  | n + 1, h, p => sha1Blocks n (sha1Block h (p.take 64)) (p.drop 64)

/-- R116, R117: the digest bytes of a chaining value, `H0` first. -/
def sha1Output : Five → Bytes
  | ⟨a, b, c, d, e⟩ => be 4 a.toNat ++ be 4 b.toNat ++ be 4 c.toNat ++ be 4 d.toNat ++ be 4 e.toNat

/-- R116 `SHA1(msg)`. -/
def sha1 (msg : Bytes) : Bytes :=
  sha1Output (sha1Blocks ((sha1Pad msg).length / 64) sha1Init (sha1Pad msg))

end Sys2Proof.Machine
end

