-- ==== Sys2Proof/Machine/Hmac.lean ====
section
/-! DEFINITION. The unit function HMAC_SHA1 (42_sha1_hmac R120 to R124). Its digest never leaves the block. -/

namespace Sys2Proof.Machine

/-- R120 `K0(key)`: the 64-byte key block. -/
def hmacKeyBlock (key : Bytes) : Bytes :=
  if key.length ≤ Config.hmacBlockBytes then key ++ rep 0x00 (Config.hmacBlockBytes - key.length)
  else sha1 key ++ rep 0x00 (Config.hmacBlockBytes - Config.digestBytes)

/-- R121: the byte-wise exclusive or with a pad of one repeated byte. -/
def xorPad (k0 : Bytes) (pad : Byte) : Bytes := k0.map (· ^^^ pad)

/-- R121: `ipad`'s byte. -/
def ipadByte : Byte := 0x36

/-- R121: `opad`'s byte. -/
def opadByte : Byte := 0x5C

/-- R122 `HMAC_SHA1(key, msg)`. -/
def hmacSha1 (key msg : Bytes) : Bytes :=
  sha1 (xorPad (hmacKeyBlock key) opadByte ++ sha1 (xorPad (hmacKeyBlock key) ipadByte ++ msg))

end Sys2Proof.Machine
end

