-- ==== Sys2Proof/Machine/Hotp.lean ====
section
/-! DEFINITION. Dynamic truncation, reduction, formatting, the HOTP pipeline and command HOTP (43_hotp). -/

namespace Sys2Proof.Machine

/-- R141: `digest[19] & 0x0F`. -/
def dtOffset (digest : Bytes) : Nat := (digest.getD 19 0 &&& Config.dtNibbleMask).toNat

/-- R141: the big-endian window of four bytes at `offset`, each byte zero-extended before it is shifted. -/
def dtBinary (digest : Bytes) : U32 :=
  ((digest.getD (dtOffset digest) 0).setWidth 32 <<< 24)
    ||| ((digest.getD (dtOffset digest + 1) 0).setWidth 32 <<< 16)
    ||| ((digest.getD (dtOffset digest + 2) 0).setWidth 32 <<< 8)
    ||| (digest.getD (dtOffset digest + 3) 0).setWidth 32

/-- R141 `DT(digest)`: bit 31 cleared. -/
def dt (digest : Bytes) : U32 := dtBinary digest &&& Config.dtSignMask

/-- R143: the reduction modulo 10^6. -/
def reduceCode (truncated : U32) : Nat := truncated.toNat % Config.modulus

/-- R144 `FMT6(v)`: byte k is `0x30 + (floordiv(v, 10^(5 − k)) mod 10)`. -/
def fmt6 (v : Nat) : Bytes :=
  (List.range Config.digits).map fun k => BitVec.ofNat 8 (0x30 + v / 10 ^ (Config.digits - 1 - k) % 10)

/-- R145 `HOTP(key, counterBytes)`. -/
def hotp (key counterBytes : Bytes) : Bytes := fmt6 (reduceCode (dt (hmacSha1 key counterBytes)))

/-- R147: command HOTP. -/
def execHotp (key counterBytes : Bytes) (s : State) : Host.Outcome State Fault Refusal :=
  .next (respond .ok (hotp key counterBytes) s)

end Sys2Proof.Machine
end

