-- ==== Sys2Proof/Machine/Serializer.lean ====
section
/-! DEFINITION. The counter serializer and command CTRSER (41_counter_serializer). -/

namespace Sys2Proof.Machine

/-- R101: byte k is `(c >>a (56 − 8k)) & 0xFF`, the shift arithmetic on the signed 64-bit value. -/
def ctrser (c : S64) : Bytes :=
  (List.range Config.ctrBytes).map fun k => ((c.sshiftRight (56 - 8 * k)) &&& 0xFF).setWidth 8

/-- R102: command CTRSER. -/
def execCtrser (counter : S64) (s : State) : Host.Outcome State Fault Refusal :=
  .next (respond .ok (ctrser counter) s)

end Sys2Proof.Machine
end

