-- ==== Sys2Proof/Machine/TimeStep.lean ====
section
/-! DEFINITION. The time-step unit and commands SETSTEP, STEPIDX, GENTOTP (44_timestep R160 to R169). -/

namespace Sys2Proof.Machine

/-- R161: command SETSTEP. The comparison is signed (R162). -/
def execSetstep (seconds : S64) (s : State) : Host.Outcome State Fault Refusal :=
  if seconds.toInt ≤ 0 then .next (raise .configError s)
  else .next (respond .ok [] (writeTimestep seconds s))

/-- R163, R164: the quotient under either reading of `NEG_TIME_DIV`; they agree for `now` ≥ 0. -/
def stepQuotient (mode : Config.NegTimeDiv) (now ts : Int) : Int :=
  match mode with
  | .floor => Int.fdiv now ts
  | .trunc => Int.tdiv now ts

/-- R163 `STEP(now, ts)`, for ts ≥ 1; a TIMESTEP that is not positive is in no reachable state (R21), and the value
there is free (log entry 2). -/
def stepIndex (now ts : S64) : S64 :=
  if 0 < ts.toInt then wrap64 (stepQuotient Config.negTimeDiv now.toInt ts.toInt)
  else Config.stepOfIllegalTimestep now ts

/-- R165: command STEPIDX. -/
def execStepidx (s : State) : Host.Outcome State Fault Refusal :=
  .next (respond .ok (be 8 (toU64 (stepIndex (nowValue s) (readTimestep s)))) (takeSample s))

/-- R166: the counter of a step index and an offset, `wrap64(S + o)`. -/
def counterAt (step : S64) (offset : Int) : S64 := wrap64 (step.toInt + offset)

/-- R167 `TOTP(key, now, ts, o)`. -/
def totp (key : Bytes) (now ts : S64) (offset : Int) : Bytes :=
  hotp key (ctrser (counterAt (stepIndex now ts) offset))

/-- R168: command GENTOTP. -/
def execGentotp (key : Bytes) (stepOffset : S64) (s : State) : Host.Outcome State Fault Refusal :=
  .next (respond .ok (totp key (nowValue s) (readTimestep s) stepOffset.toInt) (takeSample s))

end Sys2Proof.Machine
end

