-- ==== Sys2Proof/Machine/Verify.lean ====
section
/-! DEFINITION. The window validator and command VERIFY (44_timestep R170 to R174). -/

namespace Sys2Proof.Machine

/-- R170: the offsets −WINDOW, ..., +WINDOW in ascending order. -/
def windowOffsets : List Int :=
  (List.range (2 * Config.window + 1)).map fun k => (k : Int) - (Config.window : Int)

/-- R172: the loop over the offsets that are left, left at the first match; the comparison is equality of byte
sequences (R171). -/
def verifyLoop (key candidate : Bytes) (step : S64) : List Int → Bool
  | [] => false
  | d :: ds =>
    if hotp key (ctrser (counterAt step d)) = candidate then true else verifyLoop key candidate step ds

/-- R172, D17: the payload byte of a result. -/
def boolByte (b : Bool) : Byte := if b then 0x01 else 0x00

/-- R172: command VERIFY; one sample for all three derivations. -/
def execVerify (key candidate : Bytes) (s : State) : Host.Outcome State Fault Refusal :=
  .next (respond .ok
    [boolByte (verifyLoop key candidate (stepIndex (nowValue s) (readTimestep s)) windowOffsets)] (takeSample s))

end Sys2Proof.Machine
end

