-- ==== Sys2Proof/Machine/Dispatch.lean ====
section
/-! DEFINITION. One arm per command (30_encoding R63). -/

namespace Sys2Proof.Machine

def exec (i : Instr) (s : State) : Host.Outcome State Fault Refusal :=
  match i with
  | .b32enc data => Sys2Proof.Machine.execB32enc data s
  | .ctrser counter => Sys2Proof.Machine.execCtrser counter s
  | .hotp key counterBytes => Sys2Proof.Machine.execHotp key counterBytes s
  | .setstep seconds => Sys2Proof.Machine.execSetstep seconds s
  | .stepidx => Sys2Proof.Machine.execStepidx s
  | .gentotp key stepOffset => Sys2Proof.Machine.execGentotp key stepOffset s
  | .verify key candidate => Sys2Proof.Machine.execVerify key candidate s

end Sys2Proof.Machine
end

