-- ==== Sys2Proof/WellFormed.lean ====
section
/-! DEFINITION. Which commands have a packet: operand lengths within a `len16` field (30_encoding R61, R7), and eight
counter bytes in HOTP (R62, R79). Every value of the operands is otherwise legal (R76). -/

namespace Sys2Proof

/-- R61, R7: a byte-string operand is 0 to 65 535 bytes. -/
def fitsLen16 (b : Bytes) : Bool := decide (b.length ≤ Config.maxOperandBytes)

/-- The commands some packet spells. -/
def wellFormed : Instr → Bool
  | .b32enc data => fitsLen16 data
  | .ctrser _ => true
  | .hotp key counterBytes => fitsLen16 key && decide (counterBytes.length = Config.ctrBytes)
  | .setstep _ => true
  | .stepidx => true
  | .gentotp key _ => fitsLen16 key
  | .verify key candidate => fitsLen16 key && fitsLen16 candidate

end Sys2Proof
end

