-- ==== Sys2Proof/Decode.lean ====
section
/-! DEFINITION. The decoder and the encoder of command packets (30_encoding R60 to R70, R74 to R77). -/

namespace Sys2Proof

open Sys2Proof.Machine

/-- R63: byte 0 alone selects the command; R74: 0x00 and 0x08 to 0xFF select none. -/
def opcodeOf (op : Byte) : Option Opcode :=
  match op.toNat with
  | 1 => some .b32enc
  | 2 => some .ctrser
  | 3 => some .hotp
  | 4 => some .setstep
  | 5 => some .stepidx
  | 6 => some .gentotp
  | 7 => some .verify
  | _ => none

/-- R63: the opcode byte of each command. -/
def opcodeByte : Opcode → Byte
  | .b32enc => 0x01
  | .ctrser => 0x02
  | .hotp => 0x03
  | .setstep => 0x04
  | .stepidx => 0x05
  | .gentotp => 0x06
  | .verify => 0x07

/-- R63: the format of each command. -/
def formatOf : Opcode → Format
  | .b32enc => .d
  | .ctrser => .q
  | .hotp => .km
  | .setstep => .q
  | .stepidx => .n
  | .gentotp => .km
  | .verify => .kc

/-- R65: the length law. -/
def lengthLaw (f : Format) (p : Bytes) : Bool :=
  match f with
  | .n => decide (p.length = 1)
  | .q => decide (p.length = 9)
  | .d => decide (3 ≤ p.length) && decide (p.length = 3 + len16 p 1)
  | .km => decide (3 ≤ p.length) && decide (p.length = 11 + len16 p 1)
  | .kc => decide (3 ≤ p.length) && decide (5 + len16 p 1 ≤ p.length)
      && decide (p.length = 5 + len16 p 1 + len16 p (3 + len16 p 1))

/-- R64: operand assembly. -/
def operandsOf (o : Opcode) (p : Bytes) : Instr :=
  match o with
  | .b32enc => .b32enc (bytesField p 3 (len16 p 1))
  | .ctrser => .ctrser (s64Field p 1)
  | .hotp => .hotp (bytesField p 3 (len16 p 1)) (bytesField p (3 + len16 p 1) 8)
  | .setstep => .setstep (s64Field p 1)
  | .stepidx => .stepidx
  | .gentotp => .gentotp (bytesField p 3 (len16 p 1)) (s64Field p (3 + len16 p 1))
  | .verify => .verify (bytesField p 3 (len16 p 1))
      (bytesField p (5 + len16 p 1) (len16 p (3 + len16 p 1)))

/-- R69: the decoder, total on any byte sequence; the order of the checks is R69's and R197's. -/
def decode (p : Bytes) : Except Reject Instr :=
  match p with
  | [] => .error .malformed
  | op :: _ =>
    match opcodeOf op with
    | none => .error .illegalOpcode
    | some o => if lengthLaw (formatOf o) p then .ok (operandsOf o p) else .error .malformed

/-- The row of the opcode map a command belongs to. -/
def opcodeOfInstr : Instr → Opcode
  | .b32enc _ => .b32enc
  | .ctrser _ => .ctrser
  | .hotp _ _ => .hotp
  | .setstep _ => .setstep
  | .stepidx => .stepidx
  | .gentotp _ _ => .gentotp
  | .verify _ _ => .verify

/-- R62: the fields after the opcode, in the order the format lists them. -/
def encodeFields : Instr → Bytes
  | .b32enc data => be 2 data.length ++ data
  | .ctrser counter => be 8 (toU64 counter)
  | .hotp key counterBytes => be 2 key.length ++ key ++ counterBytes
  | .setstep seconds => be 8 (toU64 seconds)
  | .stepidx => []
  | .gentotp key stepOffset => be 2 key.length ++ key ++ be 8 (toU64 stepOffset)
  | .verify key candidate => be 2 key.length ++ key ++ (be 2 candidate.length ++ candidate)

/-- R60: the packet of a command. -/
def encode (c : Instr) : Bytes := opcodeByte (opcodeOfInstr c) :: encodeFields c

/-- R62, R77: the length of a command's packet. -/
def packetLength : Instr → Nat
  | .b32enc data => 3 + data.length
  | .ctrser _ => 9
  | .hotp key _ => 11 + key.length
  | .setstep _ => 9
  | .stepidx => 1
  | .gentotp key _ => 11 + key.length
  | .verify key candidate => 5 + key.length + candidate.length

/-- R79: the assembler refuses an over-long operand and a HOTP second operand that is not 8 bytes. -/
def assembleInstr (c : Instr) : Option Bytes := if wellFormed c then some (encode c) else none

/-- The `len16` at offset `at_` of a packet whose missing bytes are zero. -/
def paddedLen16 (p : Bytes) (at_ : Nat) : Nat := (p.getD at_ 0).toNat * 256 + (p.getD (at_ + 1) 0).toNat

/-- The length that the opcode and the length fields of a packet's first bytes imply (R77), bytes not given
being zero; 0 where byte 0 selects no command. -/
def impliedLength (p : Bytes) : Nat :=
  match opcodeOf (p.getD 0 0) with
  | none => 0
  | some o =>
    match formatOf o with
    | .n => 1
    | .q => 9
    | .d => 3 + paddedLen16 p 1
    | .km => 11 + paddedLen16 p 1
    | .kc => 5 + paddedLen16 p 1 + paddedLen16 p (3 + paddedLen16 p 1)

/-- The packet of an instruction numbered as the opcode table numbers its bits: byte k is bits 8k+7..8k, and the
operand bytes the table gives no bits are zero, up to the length the packet's own fields imply (log entry 4). -/
def tablePacket (nbits w : Nat) : Bytes :=
  let given := (List.range ((nbits + 7) / 8)).map fun k => BitVec.ofNat 8 (w >>> (8 * k))
  given ++ rep 0 (impliedLength given - given.length)

/-- The instruction the decoder reads from that packet. -/
def decodeTableWord (nbits w : Nat) : Option Instr :=
  match decode (tablePacket nbits w) with
  | .ok c => some c
  | .error _ => none

end Sys2Proof
end

