-- ==== Sys2Proof/Machine/Fetch.lean ====
section
/-! DEFINITION. Taking the next host event (10_state R28: the engine accepts a packet only when idle; 20_memory R52: a
packet is taken whole at acceptance). -/

namespace Sys2Proof.Machine

/-- What an idle engine finds at its ports. -/
inductive Fetched where
  /-- R215: nothing is presented; the engine waits, TIMESTEP held. -/
  | idle
  /-- R30: `rst` is asserted. -/
  | rst
  /-- R28: a packet, decoded as R69 says. -/
  | command (d : Except Reject Instr)

/-- The next host event, and the state with that event used up. -/
def fetch (s : State) : Fetched × State :=
  match s.input with
  | [] => (.idle, s)
  | .rst :: rest => (.rst, { s with input := rest })
  | .packet p :: rest => (.command (decode p), { s with input := rest })

/-- The state in which a packet is the next thing the host has presented. -/
def placePacket (p : Bytes) (s : State) : State := { s with input := .packet p :: s.input }

end Sys2Proof.Machine
end

