-- ==== Sys2Proof/Machine/Step.lean ====
section
/-! DEFINITION. One step: one host event, executed atomically (00_scope R13, 20_memory R47). -/

namespace Sys2Proof.Machine

/-- R13, R28, R69: an idle engine stays idle when nothing is presented, takes a reset, or takes one packet and
answers it with exactly one response. -/
def step (s : State) : Host.Outcome State Fault Refusal :=
  match fetch s with
  | (.idle, t) => .next t
  | (.rst, t) => .next (resetEngine t)
  | (.command (.ok c), t) => exec c t
  | (.command (.error r), t) => .next (refusePacket r t)

/-- The state in which the host's next packet is the instruction that the opcode table numbers so (log entry 4). -/
def State.withFetchWord (s : State) (nbits w : Nat) : State := placePacket (tablePacket nbits w) s

end Sys2Proof.Machine
end

