-- ==== Sys2Proof/Machine/Run.lean ====
section
/-! DEFINITION. A run (70_reset R231): command packets presented to an engine in the reset state, with the clock
samples its time-reading commands take. -/

namespace Sys2Proof.Machine

/-- R231: the engine at reset, with the packets the host is going to present and the values the clock port is going to
present at the samples. -/
def boot (packets : List Bytes) (clock : List S64) : State :=
  { State.reset with input := packets.map HostEvent.packet, nowPort := clock }

/-- `n` steps, stopping where a step does not answer a next state. -/
def runSteps : Nat → State → Host.Outcome State Fault Refusal
  | 0, s => .next s
  | n + 1, s =>
    match step s with
    | .next t => runSteps n t
    | .fault r => .fault r
    | .refused r => .refused r

/-- R50: the TIMESTEP left by the latest SETSTEP among the packets that succeeded, `ts` if there is none. -/
def latestTimestep (ts : S64) : List Bytes → S64
  | [] => ts
  | p :: rest =>
    match decode p with
    | .ok (.setstep seconds) => latestTimestep (if 0 < seconds.toInt then seconds else ts) rest
    | _ => latestTimestep ts rest

/-- R185: the commands that sample the clock. -/
def samplesClock : Instr → Bool
  | .b32enc _ => false
  | .ctrser _ => false
  | .hotp _ _ => false
  | .setstep _ => false
  | .stepidx => true
  | .gentotp _ _ => true
  | .verify _ _ => true

end Sys2Proof.Machine
end

