-- ==== Sys2Proof/Machine/CreateTotp.lean ====
section
/-! DEFINITION. The pseudo-command CREATETOTP (30_encoding R80, 44_timestep R176 to R179): the packets it expands to, and
the mapping the HOST assembles from their responses. It is no packet and no state of the block. -/

namespace Sys2Proof.Machine

/-- R80: the commands it expands to, in order. -/
def expandCreateTotp (key : Bytes) (offsets : List S64) : List Instr :=
  offsets.map fun o => Instr.gentotp key o

/-- The decimal digits of a number, most significant first, no leading zeros; `fuel` bounds their count. -/
def decDigits : Nat → Nat → Bytes
  | 0, _ => []
  | fuel + 1, n =>
    if n < 10 then [BitVec.ofNat 8 (0x30 + n)]
    else decDigits fuel (n / 10) ++ [BitVec.ofNat 8 (0x30 + n % 10)]

/-- R177 `DEC(o)`; an `S64` has at most 19 digits. -/
def decKey (o : S64) : Bytes :=
  if o.toInt < 0 then 0x2D :: decDigits 19 o.toInt.natAbs else decDigits 19 o.toInt.natAbs

/-- R178: one entry processed: a new key goes to the end, a known key keeps its place and takes the new code. -/
def assignEntry (key code : Bytes) : List (Bytes × Bytes) → List (Bytes × Bytes)
  | [] => [(key, code)]
  | (k, c) :: rest => if k = key then (k, code) :: rest else (k, c) :: assignEntry key code rest

/-- R178: the assembly, entries processed in order. -/
def assembleMapping (entries : List (S64 × Bytes)) : List (Bytes × Bytes) :=
  entries.foldl (fun m e => assignEntry (decKey e.1) e.2 m) []

/-- R230: the host issues one command to an idle engine and reads its response; `none` where the assembler refuses the
command (R79) or the engine is not idle. -/
def hostIssue (c : Instr) (s : State) : Option (Bytes × State) :=
  match s.input, assembleInstr c with
  | [], some p =>
    match step (present p s) with
    | .next t => t.responses.getLast?.map fun r => (r, t)
    | _ => none
  | _, _ => none

/-- R176, R179: the GENTOTP commands issued in order, each with a sample of its own; the entries obtained, each the
offset and the payload of its response. -/
def issueOffsets (key : Bytes) : List S64 → State → Option (List (S64 × Bytes) × State)
  | [], s => some ([], s)
  | o :: rest, s =>
    match hostIssue (.gentotp key o) s with
    | none => none
    | some (r, t) =>
      match issueOffsets key rest t with
      | none => none
      | some (entries, u) => some ((o, r.tail) :: entries, u)

/-- R176: `CREATETOTP key, offsets` from an idle engine: the mapping, and the engine's state after it. -/
def createTotp (key : Bytes) (offsets : List S64) (s : State) : Option (List (Bytes × Bytes) × State) :=
  (issueOffsets key offsets s).map fun e => (assembleMapping e.1, e.2)

/-- R179: the entries when the first sample is taken in state `s`, one more sample for each offset. -/
def sampledEntries (key : Bytes) : List S64 → State → List (S64 × Bytes)
  | [], _ => []
  | o :: rest, s =>
    (o, totp key (nowValue s) (readTimestep s) o.toInt) :: sampledEntries key rest (takeSample s)

end Sys2Proof.Machine
end

