-- ==== Sys2Proof/Machine/Assembler.lean ====
section
/-! DEFINITION. The assembler notation of 30_encoding R78, R79 and the response notation of R81. It is the host's: no
command of the block reads text. -/

namespace Sys2Proof.Machine

/-- R78: what one line stands for. -/
inductive AsmItem where
  | command (c : Instr)
  | createTotp (key : Bytes) (offsets : List S64)
  /-- The directive `.now`: the value the clock port presents from here on. -/
  | now (v : S64)
  deriving DecidableEq, Repr

/-- The double quote of R79. -/
def quoteMark : Char := Char.ofNat 34

/-- The apostrophe of `h'...'`. -/
def apostrophe : Char := Char.ofNat 39

def isBlank (c : Char) : Bool := c = ' ' || c = '\t'

def skipBlanks (cs : List Char) : List Char := cs.dropWhile isBlank

/-- R78: nothing but a comment is left of the line. -/
def lineEnd (cs : List Char) : Bool :=
  match skipBlanks cs with
  | [] => true
  | c :: _ => c = ';'

def decimalDigit (c : Char) : Option Nat :=
  if 48 ≤ c.toNat ∧ c.toNat ≤ 57 then some (c.toNat - 48) else none

def hexDigit (c : Char) : Option Nat :=
  if 48 ≤ c.toNat ∧ c.toNat ≤ 57 then some (c.toNat - 48)
  else if 65 ≤ c.toNat ∧ c.toNat ≤ 70 then some (c.toNat - 55)
  else if 97 ≤ c.toNat ∧ c.toNat ≤ 102 then some (c.toNat - 87)
  else none

/-- The digits at the head of the text: how many, their number, and the text after them. -/
def takeNumber (base : Nat) (digit : Char → Option Nat) : List Char → Nat → Nat → Nat × Nat × List Char
  | [], count, acc => (count, acc, [])
  | c :: cs, count, acc =>
    match digit c with
    | some d => takeNumber base digit cs (count + 1) (acc * base + d)
    | none => (count, acc, c :: cs)

/-- R79 `<int>`, decimal part: at least one digit, magnitude at most `limit`. -/
def parseDecimal (limit : Nat) (cs : List Char) : Option (Nat × List Char) :=
  match takeNumber 10 decimalDigit cs 0 0 with
  | (count, v, rest) => if 1 ≤ count ∧ v ≤ limit then some (v, rest) else none

/-- R79 `<int>`. -/
def parseInt (cs : List Char) : Option (S64 × List Char) :=
  match cs with
  | '0' :: 'x' :: rest =>
    match takeNumber 16 hexDigit rest 0 0 with
    | (count, v, after) => if 1 ≤ count ∧ count ≤ 16 then some (toS64 v, after) else none
  | '-' :: rest => (parseDecimal (2 ^ 63) rest).map fun e => (wrap64 (-(e.1 : Int)), e.2)
  | _ => (parseDecimal (2 ^ 63 - 1) cs).map fun e => (wrap64 (e.1 : Int), e.2)

/-- R79: an even number of hexadecimal digits, two a byte. -/
def hexBytes : List Char → Option Bytes
  | [] => some []
  | [_] => none
  | a :: b :: rest =>
    match hexDigit a, hexDigit b, hexBytes rest with
    | some x, some y, some bytes => some (BitVec.ofNat 8 (16 * x + y) :: bytes)
    | _, _, _ => none

def isPrintable (c : Char) : Bool := 32 ≤ c.toNat && c.toNat ≤ 126

/-- The text up to a closing character, and the text after it. -/
def upTo (close : Char) : List Char → Option (List Char × List Char)
  | [] => none
  | c :: cs => if c = close then some ([], cs) else (upTo close cs).map fun e => (c :: e.1, e.2)

/-- R79 `<bytes>`. -/
def parseBytes (cs : List Char) : Option (Bytes × List Char) :=
  match cs with
  | [] => none
  | c :: rest =>
    if c = quoteMark then
      match upTo quoteMark rest with
      | some (body, after) =>
        if body.all isPrintable then some (body.map fun x => BitVec.ofNat 8 x.toNat, after) else none
      | none => none
    else
      match rest with
      | [] => none
      | c2 :: rest2 =>
        if c = 'h' ∧ c2 = apostrophe then
          match upTo apostrophe rest2 with
          | some (body, after) => (hexBytes body).map fun b => (b, after)
          | none => none
        else none

/-- R78: operands are separated by commas. -/
def parseComma (cs : List Char) : Option (List Char) :=
  match skipBlanks cs with
  | ',' :: rest => some (skipBlanks rest)
  | _ => none

/-- The rest of a list of integers after its first; `fuel` bounds its length. -/
def parseIntsTail : Nat → List Char → Option (List S64 × List Char)
  | 0, _ => none
  | fuel + 1, cs =>
    match skipBlanks cs with
    | ']' :: rest => some ([], rest)
    | ',' :: rest =>
      match parseInt (skipBlanks rest) with
      | some (v, after) => (parseIntsTail fuel after).map fun e => (v :: e.1, e.2)
      | none => none
    | _ => none

/-- R78 `[<int>, <int>, ...]`. -/
def parseInts (cs : List Char) : Option (List S64 × List Char) :=
  match cs with
  | '[' :: rest =>
    match skipBlanks rest with
    | ']' :: after => some ([], after)
    | body =>
      match parseInt body with
      | some (v, after) => (parseIntsTail after.length after).map fun e => (v :: e.1, e.2)
      | none => none
  | _ => none

/-- One operand, then the end of the line. -/
def parseOne {α : Type} (operand : List Char → Option (α × List Char)) (cs : List Char) : Option α :=
  match operand cs with
  | some (a, rest) => if lineEnd rest then some a else none
  | none => none

/-- Two operands, then the end of the line. -/
def parseTwo {α β : Type} (first : List Char → Option (α × List Char))
    (second : List Char → Option (β × List Char)) (cs : List Char) : Option (α × β) :=
  match first cs with
  | none => none
  | some (a, rest) =>
    match parseComma rest with
    | none => none
    | some rest2 => (parseOne second rest2).map fun b => (a, b)

/-- R79: a command the assembler does not refuse. -/
def acceptCommand (c : Instr) : Option AsmItem := if wellFormed c then some (.command c) else none

/-- R78, R79: a line's mnemonic and operand text. -/
def parseItem (word cs : List Char) : Option AsmItem :=
  if word = "B32ENC".toList then (parseOne parseBytes cs).bind fun d => acceptCommand (.b32enc d)
  else if word = "CTRSER".toList then (parseOne parseInt cs).bind fun v => acceptCommand (.ctrser v)
  else if word = "HOTP".toList then
    (parseTwo parseBytes parseBytes cs).bind fun e => acceptCommand (.hotp e.1 e.2)
  else if word = "SETSTEP".toList then (parseOne parseInt cs).bind fun v => acceptCommand (.setstep v)
  else if word = "STEPIDX".toList then (if lineEnd cs then acceptCommand .stepidx else none)
  else if word = "GENTOTP".toList then
    (parseTwo parseBytes parseInt cs).bind fun e => acceptCommand (.gentotp e.1 e.2)
  else if word = "VERIFY".toList then
    (parseTwo parseBytes parseBytes cs).bind fun e => acceptCommand (.verify e.1 e.2)
  else if word = "CREATETOTP".toList then
    (parseTwo parseBytes parseInts cs).bind fun e =>
      if fitsLen16 e.1 then some (.createTotp e.1 e.2) else none
  else if word = ".now".toList then (parseOne parseInt cs).map .now
  else none

/-- R78: one line; a line with nothing but blanks and a comment stands for nothing. -/
def parseLine (line : List Char) : Option (List AsmItem) :=
  if lineEnd line then some []
  else
    let body := skipBlanks line
    let word := body.takeWhile fun c => !(isBlank c || c = ';')
    (parseItem word (skipBlanks (body.drop word.length))).map fun item => [item]

/-- The lines of a text; `cur` is the line so far, reversed. -/
def splitLines : List Char → List Char → List (List Char)
  | cur, [] => [cur.reverse]
  | cur, c :: cs => if c = '\n' then cur.reverse :: splitLines [] cs else splitLines (c :: cur) cs

/-- R78: one command a line; `none` where the assembler refuses a line. -/
def parseLines : List (List Char) → Option (List AsmItem)
  | [] => some []
  | line :: rest =>
    match parseLine line, parseLines rest with
    | some here, some later => some (here ++ later)
    | _, _ => none

/-- R78: a whole program text. -/
def assembleText (text : List Char) : Option (List AsmItem) := parseLines (splitLines [] text)

/-- R80: the commands an item stands for. -/
def itemCommands : AsmItem → List Instr
  | .command c => [c]
  | .createTotp key offsets => expandCreateTotp key offsets
  | .now _ => []

/-- The packets of a program, in order. -/
def programPackets (items : List AsmItem) : List Bytes := (items.flatMap itemCommands).map encode

/-- The clock samples of a program: each time-reading command samples the value that the latest `.now` before it gives,
`v` before the first. -/
def programSamples (v : S64) : List AsmItem → List S64
  | [] => []
  | .now w :: rest => programSamples w rest
  | .command c :: rest => ([c].filter samplesClock).map (fun _ => v) ++ programSamples v rest
  | .createTotp _ offsets :: rest => offsets.map (fun _ => v) ++ programSamples v rest

/-- R231: the run of a program text's items, with `v` on the clock port until the first `.now`. -/
def bootProgram (v : S64) (items : List AsmItem) : State := boot (programPackets items) (programSamples v items)

/-- R81: how a response's payload is written. -/
inductive PayloadForm where
  | bare | hex | quoted
  deriving DecidableEq, Repr

/-- R67: the name of a status code. -/
def statusName (code : Byte) : Option (List Char) :=
  if code = statusCode .ok then some "OK".toList
  else if code = statusCode .configError then some "CONFIG_ERROR".toList
  else if code = statusCode .invalidArgument then some "INVALID_ARGUMENT".toList
  else if code = statusCode .illegalOpcode then some "ILLEGAL_OPCODE".toList
  else if code = statusCode .malformed then some "MALFORMED".toList
  else none

def hexChar (n : Nat) : Char := if n < 10 then Char.ofNat (48 + n) else Char.ofNat (55 + n)

def renderPayload (form : PayloadForm) (payload : Bytes) : List Char :=
  match form with
  | .bare => []
  | .hex => [' ', 'h', apostrophe]
      ++ payload.flatMap (fun b => [hexChar (b.toNat / 16), hexChar (b.toNat % 16)]) ++ [apostrophe]
  | .quoted => [' ', quoteMark] ++ payload.map (fun b => Char.ofNat b.toNat) ++ [quoteMark]

/-- R81: a response as a listing writes it. -/
def renderResponse (form : PayloadForm) (r : Bytes) : Option (List Char) :=
  match r with
  | [] => none
  | code :: payload => (statusName code).map fun name => "-> ".toList ++ name ++ renderPayload form payload

end Sys2Proof.Machine
end

