-- ==== Sys2Proof/Safety.lean ====
section
/-! DEFINITION. What counts as a good state, in the terms the claims use: a legal TIMESTEP (10_state R21) and response
packets of the kinds the block produces (30_encoding R66, R67). -/

namespace Sys2Proof.Machine

/-- R21: legal values of TIMESTEP are 1 to 2^63 − 1; bit 63 is 0 and the value is never 0. -/
abbrev LegalTimestep (v : S64) : Prop := 1 ≤ v.toInt ∧ v.toInt ≤ 2 ^ 63 - 1

/-- R66, R67: a response is a status byte and a payload; the status is OK, or it is one of the three error statuses that
are ever produced and the payload is empty. -/
def legalResponse : Bytes → Bool
  | [] => false
  | code :: payload => code = 0x00 || (payload.isEmpty && (code = 0x01 || code = 0x80 || code = 0x81))

/-- The invariant of the machine. -/
abbrev Inv (s : State) : Prop := LegalTimestep s.timestep ∧ ∀ r ∈ s.responses, legalResponse r = true

/-- The 16-bit big-endian number at offset `k` of a packet, in the words of R61: `p[i]*256 + p[i+1]`. -/
def numberAt (p : Bytes) (k : Nat) : Nat := (p.getD k 0).toNat * 256 + (p.getD (k + 1) 0).toNat

/-- R65 negated, row by row: the length of a packet with opcode `op` in 0x01 to 0x07 is not the one its format and its
length fields imply. -/
abbrev BreaksLengthLaw (op : Byte) (p : Bytes) : Prop :=
  (op = 0x05 ∧ p.length ≠ 1) ∨
  ((op = 0x02 ∨ op = 0x04) ∧ p.length ≠ 9) ∨
  (op = 0x01 ∧ (p.length < 3 ∨ p.length ≠ 3 + numberAt p 1)) ∨
  ((op = 0x03 ∨ op = 0x06) ∧ (p.length < 3 ∨ p.length ≠ 11 + numberAt p 1)) ∨
  (op = 0x07 ∧ (p.length < 3 ∨ p.length < 5 + numberAt p 1 ∨
    p.length ≠ 5 + numberAt p 1 + numberAt p (3 + numberAt p 1)))

/-- R29: how many clock samples the packets of a run take, one for each that decodes to a time-reading command. -/
def sampleCount (packets : List Bytes) : Nat :=
  packets.countP fun p =>
    match decode p with
    | .ok c => samplesClock c
    | .error _ => false

/-- The number that decimal digit bytes spell, most significant first. -/
def decimalValue (b : Bytes) : Nat := b.foldl (fun n x => 10 * n + (x.toNat - 0x30)) 0

/-- R171: an ASCII digit. -/
abbrev IsDigit (b : Byte) : Prop := 0x30 ≤ b.toNat ∧ b.toNat ≤ 0x39

/-- R95: a byte of `A–Z2–7`. -/
abbrev IsBase32Symbol (b : Byte) : Prop :=
  (0x41 ≤ b.toNat ∧ b.toNat ≤ 0x5A) ∨ (0x32 ≤ b.toNat ∧ b.toNat ≤ 0x37)

end Sys2Proof.Machine
end

