-- ==== Sys2Proof/Certificates/Slice0/Obligations.lean ====
section
/-! DEFINITION. The statements for the provers. Each docstring names the rules of spec/ that it formalises. -/

open Sys2Proof Sys2Proof.Machine

/-! ### Reset, idling, the step -/

/-- R34, R220: after reset TIMESTEP is 30 and the engine is idle, nothing presented and no response pending. -/
def Obligations.ResetIsDefaultTimestepAndIdle : Prop :=
  State.reset.timestep.toInt = 30 ∧ State.reset.input = [] ∧ State.reset.responses = []

/-- R21, R34: the reset state meets the machine's invariant. -/
def Obligations.ResetMeetsInvariant : Prop := Inv State.reset

/-- R30, R34, R221: `rst` on an idle engine leaves TIMESTEP = 30 and touches nothing else of the block; from then on it is
the state that `SETSTEP 30` leaves, but for that command's response. That `rst` arrives as an event between two packets
is the model's choice (log entry 3). -/
def Obligations.RstRestoresDefaultTimestep : Prop :=
  ∀ (s : State) (rest : List HostEvent), s.input = .rst :: rest →
    step s = .next { s with input := rest, timestep := 30 } ∧
    exec (.setstep 30) { s with input := rest } =
      .next { s with input := rest, timestep := 30, responses := s.responses ++ [[0x00]] }

/-- R215: an idle engine holds its state while nothing is presented. That a step exists then is the model's choice (log
entry 3). -/
def Obligations.IdleEngineHoldsItsState : Prop := ∀ s : State, s.input = [] → step s = .next s

/-- R28, R69: a step at a packet that spells a command takes the packet off the port and runs that command; the same for
the packet of an opcode-table word (log entry 4). -/
def Obligations.StepRunsDecodedCommand : Prop :=
  (∀ (s : State) (p : Bytes) (rest : List HostEvent) (c : Instr),
    s.input = .packet p :: rest → decode p = .ok c → step s = exec c { s with input := rest }) ∧
  (∀ (s : State) (nbits w : Nat) (c : Instr),
    decodeTableWord nbits w = some c → step (s.withFetchWord nbits w) = exec c s)

/-- R62, R63: packets written out byte by byte from the formats decode to the commands they stand for. -/
def Obligations.SpecPacketsDecode : Prop :=
  decode [0x01, 0x00, 0x02, 0x66, 0x6F] = .ok (.b32enc [0x66, 0x6F]) ∧
  decode [0x02, 0xFF, 0xFF, 0xFF, 0xFF, 0xFF, 0xFF, 0xFF, 0xFE] = .ok (.ctrser (-2)) ∧
  decode [0x03, 0x00, 0x01, 0x41, 1, 2, 3, 4, 5, 6, 7, 8] = .ok (.hotp [0x41] [1, 2, 3, 4, 5, 6, 7, 8]) ∧
  decode [0x04, 0, 0, 0, 0, 0, 0, 0, 0x3C] = .ok (.setstep 60) ∧
  decode [0x05] = .ok .stepidx ∧
  decode [0x06, 0x00, 0x01, 0x41, 0, 0, 0, 0, 0, 0, 1, 0] = .ok (.gentotp [0x41] 256) ∧
  decode [0x07, 0x00, 0x01, 0x41, 0x00, 0x02, 0x42, 0x43] = .ok (.verify [0x41] [0x42, 0x43])

/-! ### Decoding -/

/-- R74: a packet whose byte 0 is 0x00 or 0x08 to 0xFF, of any length, is answered with ILLEGAL_OPCODE and an empty
payload; TIMESTEP is unchanged and the clock is not sampled. -/
def Obligations.IllegalOpcodeIsAnswered : Prop :=
  ∀ (s : State) (op : Byte) (body : Bytes) (rest : List HostEvent),
    (op = 0x00 ∨ 0x08 ≤ op.toNat) → s.input = .packet (op :: body) :: rest →
      step s = .next { s with input := rest, responses := s.responses ++ [[0x80]] }

/-- R75: the empty packet, and a packet with a legal opcode whose length breaks R65, is answered with MALFORMED and an
empty payload; TIMESTEP is unchanged and the clock is not sampled. -/
def Obligations.MalformedPacketIsAnswered : Prop :=
  ∀ (s : State) (p : Bytes) (rest : List HostEvent),
    (p = [] ∨ ∃ op body, p = op :: body ∧ BreaksLengthLaw op p) → s.input = .packet p :: rest →
      step s = .next { s with input := rest, responses := s.responses ++ [[0x81]] }

/-- R69, R197: the order of the decoder's checks: the opcode before the length, the empty packet malformed, and nothing
else is rejected. -/
def Obligations.DecoderRejectsInOrder : Prop :=
  ∀ p : Bytes,
    (decode p = .error .illegalOpcode ↔ ∃ op body, p = op :: body ∧ (op = 0x00 ∨ 0x08 ≤ op.toNat)) ∧
    (decode p = .error .malformed ↔ p = [] ∨ ∃ op body, p = op :: body ∧ BreaksLengthLaw op p)

/-- R70: decoding the packet of a command gives back the command and the operands.
The spec marks R70 as its own inference (`[derived]`). -/
def Obligations.DecodeOfEncodeIsIdentity : Prop :=
  ∀ c : Instr, wellFormed c = true → decode (encode c) = .ok c

/-- R70: the encoding is canonical: an accepted packet is the one packet of a well-formed command.
The spec marks R70 as its own inference (`[derived]`). -/
def Obligations.AcceptedPacketIsItsEncoding : Prop :=
  ∀ (p : Bytes) (c : Instr), decode p = .ok c → wellFormed c = true ∧ encode c = p

/-- R79, R70: the assembler's refusals are exactly the operands no packet carries. -/
def Obligations.AssemblerAgreesWithDecoder : Prop :=
  ∀ (c : Instr) (p : Bytes), assembleInstr c = some p ↔ decode p = .ok c

/-- R79, R177: the assembler reads an offset's decimal text back as the offset, for every 64-bit value. -/
def Obligations.AssemblerReadsDecimalIntegers : Prop :=
  ∀ o : S64, parseInt ((decKey o).map fun b => Char.ofNat b.toNat) = some (o, [])

/-! ### The seven commands: encoding, completion, effect and frame -/

/-- R94: B32ENC: its packet, and that it completes in every state, answering OK with the Base32 text; nothing but the
response channel changes. -/
def Obligations.B32encAnswersBase32 : Prop :=
  ∀ (data : Bytes) (s : State),
    (data.length ≤ 65535 → decode (0x01 :: (be 2 data.length ++ data)) = .ok (.b32enc data)) ∧
    exec (.b32enc data) s = .next { s with responses := s.responses ++ [0x00 :: b32 data] }

/-- R102: CTRSER: its packet, and that it completes in every state with the eight bytes its packet carries: the identity
on the wire; nothing but the response channel changes. -/
def Obligations.CtrserAnswersItsOperandBytes : Prop :=
  ∀ (counter : S64) (s : State),
    decode (0x02 :: be 8 counter.toNat) = .ok (.ctrser counter) ∧
    exec (.ctrser counter) s = .next { s with responses := s.responses ++ [0x00 :: be 8 counter.toNat] }

/-- R147: HOTP: its packet, and that it completes in every state with the code of the key and the eight bytes; nothing but
the response channel changes. -/
def Obligations.HotpAnswersCode : Prop :=
  ∀ (key counterBytes : Bytes) (s : State),
    (key.length ≤ 65535 → counterBytes.length = 8 →
      decode (0x03 :: (be 2 key.length ++ key ++ counterBytes)) = .ok (.hotp key counterBytes)) ∧
    exec (.hotp key counterBytes) s =
      .next { s with responses := s.responses ++ [0x00 :: hotp key counterBytes] }

/-- R161: SETSTEP: its packet, and that it completes in every state: CONFIG_ERROR with TIMESTEP unchanged exactly when the
operand's pattern is zero or has bit 63 set, else OK with TIMESTEP written; nothing else changes. -/
def Obligations.SetstepWritesOrRefuses : Prop :=
  ∀ (seconds : S64) (s : State),
    decode (0x04 :: be 8 seconds.toNat) = .ok (.setstep seconds) ∧
    (seconds.toInt ≤ 0 ↔ seconds = 0 ∨ seconds.msb = true) ∧
    (seconds.toInt ≤ 0 →
      exec (.setstep seconds) s = .next { s with responses := s.responses ++ [[0x01]] }) ∧
    (0 < seconds.toInt →
      exec (.setstep seconds) s =
        .next { s with timestep := seconds, responses := s.responses ++ [[0x00]] })

/-- R165: STEPIDX: its packet, and that with a positive TIMESTEP it completes with the floor of the one clock sample over
TIMESTEP, as eight big-endian bytes; TIMESTEP and the command port are unchanged. A sample the state does not list is a
free value, and the statement holds for every value of it. -/
def Obligations.StepidxAnswersFloorQuotient : Prop :=
  decode [0x05] = .ok .stepidx ∧
  ∀ s : State, 1 ≤ s.timestep.toInt →
    exec .stepidx s = .next { s with
      nowPort := s.nowPort.tail
      samples := s.samples + 1
      responses := s.responses ++ [0x00 :: be 8 (BitVec.ofInt 64 (Int.fdiv
        (s.nowPort.headD (Config.clockDraw s.samples)).toInt s.timestep.toInt)).toNat] }

/-- R168, R167: GENTOTP: its packet, and that with a positive TIMESTEP it completes with the code of the counter
`wrap64(STEP + offset)`, serialised big-endian; one sample is taken, TIMESTEP and the command port are unchanged. -/
def Obligations.GentotpAnswersCodeAtOffset : Prop :=
  ∀ (key : Bytes) (stepOffset : S64) (s : State),
    (key.length ≤ 65535 →
      decode (0x06 :: (be 2 key.length ++ key ++ be 8 stepOffset.toNat)) = .ok (.gentotp key stepOffset)) ∧
    (1 ≤ s.timestep.toInt →
      exec (.gentotp key stepOffset) s = .next { s with
        nowPort := s.nowPort.tail
        samples := s.samples + 1
        responses := s.responses ++ [0x00 :: hotp key (be 8 (BitVec.ofInt 64 (Int.fdiv
          (s.nowPort.headD (Config.clockDraw s.samples)).toInt s.timestep.toInt) + stepOffset).toNat)] })

/-- R172: VERIFY: its packet, and that with a positive TIMESTEP it completes with 0x01 exactly when the candidate is the
code of step S − 1, S or S + 1 for the one sample taken; TIMESTEP and the command port are unchanged. -/
def Obligations.VerifyAnswersWindowMembership : Prop :=
  ∀ (key candidate : Bytes) (s : State),
    (key.length ≤ 65535 → candidate.length ≤ 65535 →
      decode (0x07 :: (be 2 key.length ++ key ++ (be 2 candidate.length ++ candidate))) =
        .ok (.verify key candidate)) ∧
    (1 ≤ s.timestep.toInt →
      ∃ S : S64, S.toInt = Int.fdiv (s.nowPort.headD (Config.clockDraw s.samples)).toInt s.timestep.toInt ∧
        exec (.verify key candidate) s = .next { s with
          nowPort := s.nowPort.tail
          samples := s.samples + 1
          responses := s.responses ++ [[0x00,
            if candidate = hotp key (be 8 (S - 1).toNat) ∨ candidate = hotp key (be 8 S.toNat) ∨
              candidate = hotp key (be 8 (S + 1).toNat) then 0x01 else 0x00]] })

/-- R202, R185: STEPIDX, GENTOTP and VERIFY complete in every state, one with an illegal TIMESTEP too (which no run
reaches; the step index is then a free value, log entry 2): OK, one sample taken, everything else unchanged. -/
def Obligations.TimedCommandsAnswerInEveryState : Prop :=
  ∀ (c : Instr) (s : State), samplesClock c = true →
    ∃ payload : Bytes, exec c s = .next { s with
      nowPort := s.nowPort.tail
      samples := s.samples + 1
      responses := s.responses ++ [0x00 :: payload] }

/-- R185, R29, R21: what each command writes, samples and raises: TIMESTEP is written by a SETSTEP with a positive operand
alone; the clock is sampled exactly once by STEPIDX, GENTOTP and VERIFY and never otherwise; a command emits one response and
takes nothing else off the command port; only a SETSTEP with a non-positive operand raises CONFIG_ERROR.
The spec marks R185 as its own inference (`[derived]`). -/
def Obligations.CommandsWriteSampleAndRaiseAsTabled : Prop :=
  ∀ (c : Instr) (s t : State), exec c s = .next t →
    (t.timestep = s.timestep ∨ ∃ q, c = .setstep q ∧ 0 < q.toInt ∧ t.timestep = q) ∧
    t.samples = s.samples + (if samplesClock c then 1 else 0) ∧
    t.nowPort = (if samplesClock c then s.nowPort.tail else s.nowPort) ∧
    t.input = s.input ∧
    ∃ r : Bytes, t.responses = s.responses ++ [r] ∧
      (r.head? = some 0x00 ∨ (r = [0x01] ∧ ∃ q, c = .setstep q ∧ q.toInt ≤ 0))

/-- R185, R33: the response of B32ENC, CTRSER, HOTP and SETSTEP depends on the packet alone, not on TIMESTEP, the clock or
anything else of the state. -/
def Obligations.UntimedCommandsIgnoreTheState : Prop :=
  ∀ c : Instr, samplesClock c = false →
    ∃ r : Bytes, ∀ s : State, ∃ t : State, exec c s = .next t ∧ t.responses = s.responses ++ [r]

/-! ### The whole machine -/

/-- R33: the response to a packet is a function of the packet, of TIMESTEP and of the clock sample; the next TIMESTEP is a
function of the packet and TIMESTEP alone. -/
def Obligations.ResponseIsFunctionOfPacketTimestepSample : Prop :=
  ∀ (p : Bytes) (s s' t t' : State) (rest rest' : List HostEvent),
    s.input = .packet p :: rest → s'.input = .packet p :: rest' → s.timestep = s'.timestep →
    step s = .next t → step s' = .next t' →
      t.timestep = t'.timestep ∧
      (s.nowPort.headD (Config.clockDraw s.samples) = s'.nowPort.headD (Config.clockDraw s'.samples) →
        ∃ r : Bytes, t.responses = s.responses ++ [r] ∧ t'.responses = s'.responses ++ [r])

/-- R21, R66, R67: every step keeps TIMESTEP legal and emits only responses of the kinds the block produces (never
INVALID_ARGUMENT, never another status value, never a payload with an error). -/
def Obligations.EveryStepKeepsInvariant : Prop :=
  ∀ s t : State, Inv s → step s = .next t → Inv t

/-- R202, R28: no state is stuck, and every packet, well-formed or not, is taken whole and answered with exactly one
response of a kind the block produces, after the responses already emitted. -/
def Obligations.EveryPacketGetsExactlyOneResponse : Prop :=
  (∀ s : State, ∃ t : State, step s = .next t) ∧
  ∀ (s : State) (p : Bytes) (rest : List HostEvent), s.input = .packet p :: rest →
    ∃ (t : State) (r : Bytes), step s = .next t ∧ t.input = rest ∧ t.responses = s.responses ++ [r] ∧
      legalResponse r = true

/-- R231, R28, R50: a run over any packets and any clock samples ends with every packet answered, and with the TIMESTEP of
the latest SETSTEP that succeeded, or the reset value if there is none. -/
def Obligations.RunAnswersEveryPacketAndKeepsLatestTimestep : Prop :=
  ∀ (packets : List Bytes) (clock : List S64),
    ∃ t : State, runSteps packets.length (boot packets clock) = .next t ∧ t.input = [] ∧
      t.responses.length = packets.length ∧ t.timestep = latestTimestep 30 packets

/-- R29, R231: a run takes exactly one clock sample for each packet that spells a time-reading command, and none for any
other packet. -/
def Obligations.RunSamplesOncePerTimedCommand : Prop :=
  ∀ (packets : List Bytes) (clock : List S64) (t : State),
    runSteps packets.length (boot packets clock) = .next t →
      t.samples = sampleCount packets ∧ t.nowPort = clock.drop (sampleCount packets)

/-- R28, R231: the k-th response answers the k-th command: what a run over the first packets emits stands unchanged at the
front of what the run over more packets emits. -/
def Obligations.ResponsesComeInCommandOrder : Prop :=
  ∀ (first more : List Bytes) (clock : List S64) (t u : State),
    runSteps first.length (boot first clock) = .next t →
    runSteps (first ++ more).length (boot (first ++ more) clock) = .next u →
      u.responses.take first.length = t.responses

/-- R196, R198: an error status is the whole response, and the packet that caused it has no effect but that response:
TIMESTEP is not written and the clock is not sampled. -/
def Obligations.ErrorsLeaveNoTrace : Prop :=
  ∀ (s t : State) (p r : Bytes) (rest : List HostEvent), s.input = .packet p :: rest → step s = .next t →
    t.responses = s.responses ++ [r] → r.head? ≠ some 0x00 →
      r.length = 1 ∧ t = { s with input := rest, responses := s.responses ++ [r] }

/-- R192: CONFIG_ERROR is the response exactly to a SETSTEP packet whose operand is zero or negative, and a legal TIMESTEP
stays legal, so that no time-reading command finds an illegal one. -/
def Obligations.ConfigErrorExactlyFromNonPositiveSetstep : Prop :=
  ∀ (s t : State) (p r : Bytes) (rest : List HostEvent), s.input = .packet p :: rest → step s = .next t →
    t.responses = s.responses ++ [r] →
      (r = [0x01] ↔ ∃ q : S64, decode p = .ok (.setstep q) ∧ q.toInt ≤ 0) ∧
      (LegalTimestep s.timestep → LegalTimestep t.timestep)

/-- R175, R50: after a successful SETSTEP the next STEPIDX, GENTOTP and VERIFY use the new value; the step indices under 30
and 60 seconds agree for −30 ≤ now ≤ 29.
The spec marks R175 as its own inference (`[derived]`). -/
def Obligations.SetstepAffectsLaterCommands : Prop :=
  (∀ (s t : State) (q : S64), 0 < q.toInt → exec (.setstep q) s = .next t →
    (∃ u, exec .stepidx t = .next u ∧
      u.responses = s.responses ++ [[0x00], 0x00 :: be 8 (stepIndex (nowValue s) q).toNat]) ∧
    (∀ (key : Bytes) (o : S64), ∃ u, exec (.gentotp key o) t = .next u ∧
      u.responses = s.responses ++ [[0x00], 0x00 :: totp key (nowValue s) q o.toInt]) ∧
    (∀ key candidate : Bytes, ∃ u, exec (.verify key candidate) t = .next u ∧
      u.responses = s.responses ++ [[0x00], [0x00,
        if verifyLoop key candidate (stepIndex (nowValue s) q) windowOffsets then 0x01 else 0x00]])) ∧
  (∀ now : S64, -30 ≤ now.toInt → now.toInt ≤ 29 → stepIndex now 30 = stepIndex now 60)

/-! ### Base32 and the serializer -/

/-- R93: the accumulator algorithm computes the closed form: output symbol j is the five bits 5j to 5j+4 of the bit stream
extended with zeros; its length; and the number of zero bits appended, by the length modulo 5.
The spec marks R93 as its own inference (`[derived]`). -/
def Obligations.Base32IsItsClosedForm : Prop :=
  ∀ data : Bytes,
    b32 data = b32Closed data ∧
    (b32 data).length = (8 * data.length + 4) / 5 ∧
    5 * (b32 data).length - 8 * data.length = (5 - (8 * data.length) % 5) % 5 ∧
    (5 - (8 * data.length) % 5) % 5 = [0, 2, 4, 1, 3].getD (data.length % 5) 0 ∧
    (b32 data).length = 8 * (data.length / 5) + [0, 2, 4, 5, 7].getD (data.length % 5) 0

/-- R95: the output contains only characters from `A–Z2–7`, has length `ceil(8*byteLength/5)`, and never contains `=`. -/
def Obligations.Base32OutputShape : Prop :=
  ∀ data : Bytes, (∀ b ∈ b32 data, IsBase32Symbol b) ∧ (b32 data).length = (8 * data.length + 4) / 5 ∧
    (0x3D : Byte) ∉ b32 data

/-- R101, R100: the arithmetic shifts of the serializer give bits 63−8k to 56−8k of the pattern, that is `be_8` of it.
The spec marks R101 as its own inference (`[derived]`). -/
def Obligations.SerializerIsBigEndianPattern : Prop :=
  ∀ c : S64, ctrser c = be 8 c.toNat ∧
    ∀ k : Nat, k ≤ 7 → (ctrser c)[k]? = some ((c.sshiftRight (56 - 8 * k) &&& 0xFF).setWidth 8) ∧
      (ctrser c)[k]? = some (c.extractLsb' (56 - 8 * k) 8)

/-! ### SHA-1 and HMAC -/

/-- R112: the padded message is the message, 0x80, z zeros and the bit length; z is the least number that makes the length
before the last eight bytes 56 modulo 64; the whole is `64 * (floor((L + 8) / 64) + 1)` bytes. -/
def Obligations.Sha1PaddingLaw : Prop :=
  ∀ msg : Bytes, ∃ z : Nat,
    sha1Pad msg = msg ++ ([0x80] ++ rep 0x00 z ++ be 8 (8 * msg.length)) ∧
    (msg.length + 1 + z) % 64 = 56 ∧ (∀ y, y < z → (msg.length + 1 + y) % 64 ≠ 56) ∧
    (sha1Pad msg).length = 64 * ((msg.length + 8) / 64 + 1)

/-- R115: the schedule: 80 words, the first sixteen read big-endian from the block, each later one
`ROTL_1(W[t−3] ^ W[t−8] ^ W[t−14] ^ W[t−16])`. -/
def Obligations.Sha1ScheduleRecurrence : Prop :=
  ∀ blk : Bytes, (sha1Schedule blk).length = 80 ∧
    (∀ t, t < 16 → (sha1Schedule blk)[t]? =
      some (BitVec.ofNat 32 (fromBe (slice blk (4 * t) (4 * t + 4))))) ∧
    (∀ t, 16 ≤ t → t < 80 → (sha1Schedule blk)[t]? =
      some (((sha1Schedule blk).getD (t - 3) 0 ^^^ (sha1Schedule blk).getD (t - 8) 0
        ^^^ (sha1Schedule blk).getD (t - 14) 0 ^^^ (sha1Schedule blk).getD (t - 16) 0).rotateLeft 1))

/-- R115, R113, R114: a block is eighty rounds, round t with word `W[t]`, then `+32` word by word. -/
def Obligations.Sha1BlockIsEightyRounds : Prop :=
  ∀ (h : Five) (blk : Bytes), sha1Block h blk =
    fiveAdd h ((List.range 80).foldl (fun r t =>
      { a := r.a.rotateLeft 5 + sha1F t r.b r.c r.d + r.e + sha1K t + (sha1Schedule blk).getD t 0
        b := r.a
        c := r.b.rotateLeft 30
        d := r.c
        e := r.d }) h)

/-- R116: the digest is the output of the blocks of the padded message processed in order. -/
def Obligations.Sha1IsFoldOverBlocks : Prop :=
  ∀ msg : Bytes, sha1 msg = sha1Output ((List.range ((sha1Pad msg).length / 64)).foldl
    (fun h j => sha1Block h (slice (sha1Pad msg) (64 * j) (64 * j + 64))) sha1Init)

/-- R117: byte 0 is the most significant byte of `H0`, byte 19 the least significant byte of `H4`, and the truncation
offset is `H4[3:0]`. -/
def Obligations.DigestByteOrder : Prop :=
  ∀ h : Five, (sha1Output h)[0]? = some (h.a.extractLsb' 24 8) ∧
    (sha1Output h)[19]? = some (h.e.extractLsb' 0 8) ∧
    dtOffset (sha1Output h) = (h.e.extractLsb' 0 4).toNat

/-- R110, R120, R122: digests are always 20 bytes and key blocks always 64, for a key and a message of any length. -/
def Obligations.DigestAndKeyBlockLengths : Prop :=
  ∀ key msg : Bytes, (sha1 msg).length = 20 ∧ (hmacKeyBlock key).length = 64 ∧
    (hmacSha1 key msg).length = 20

/-- R123 (a), (b): trailing zero bytes up to 64 bytes in all do not change the digest, a key longer than 64 bytes is
equivalent to its own SHA-1 digest, and for the eight counter bytes both hash inputs are two blocks.
The spec marks R123 as its own inference (`[derived]`). -/
def Obligations.HmacKeyEquivalences : Prop :=
  ∀ key msg : Bytes,
    (∀ n, key.length + n ≤ 64 → hmacSha1 (key ++ rep 0x00 n) msg = hmacSha1 key msg) ∧
    (64 < key.length → hmacSha1 (sha1 key) msg = hmacSha1 key msg) ∧
    (msg.length = 8 →
      (sha1Pad (xorPad (hmacKeyBlock key) ipadByte ++ msg)).length = 2 * 64 ∧
      (sha1Pad (xorPad (hmacKeyBlock key) opadByte
        ++ sha1 (xorPad (hmacKeyBlock key) ipadByte ++ msg))).length = 2 * 64)

/-! ### Truncation, formatting, HOTP -/

/-- R142, R141: the offset is 0 to 15 and the window inside the digest; the truncated number is the big-endian window modulo
2^31, read signed or unsigned; the high nibble of the last byte influences nothing.
The spec marks R142 as its own inference (`[derived]`). -/
def Obligations.TruncationWindowLaw : Prop :=
  (∀ digest : Bytes, digest.length = 20 →
    dtOffset digest ≤ 15 ∧ dtOffset digest + 3 ≤ 18 ∧
    (dtBinary digest).toNat = fromBe (slice digest (dtOffset digest) (dtOffset digest + 4)) ∧
    (dt digest).toNat = (dtBinary digest).toNat % 2 ^ 31 ∧
    ((dt digest).toNat : Int) = (dtBinary digest).toInt % 2 ^ 31) ∧
  (∀ (front : Bytes) (x y : Byte), front.length = 19 → x &&& 0x0F = y &&& 0x0F →
    dt (front ++ [x]) = dt (front ++ [y]))

/-- R144: six bytes, each a decimal digit, spelling the number with its leading zeros; two numbers below 10^6 have different
texts. -/
def Obligations.FormatterSpellsSixDigits : Prop :=
  (∀ v : Nat, v < 1000000 →
    (fmt6 v).length = 6 ∧ (∀ b ∈ fmt6 v, IsDigit b) ∧ decimalValue (fmt6 v) = v ∧
    ∀ k, k ≤ 5 → ((fmt6 v).getD k 0).toNat = 0x30 + v / 10 ^ (5 - k) % 10) ∧
  (∀ v w : Nat, v < 1000000 → w < 1000000 → fmt6 v = fmt6 w → v = w)

/-- R145, R143: a code is six decimal digits that spell the truncated digest modulo one million. -/
def Obligations.CodeIsSixDigitsOfTruncatedDigest : Prop :=
  ∀ key counterBytes : Bytes, (hotp key counterBytes).length = 6 ∧
    (∀ b ∈ hotp key counterBytes, IsDigit b) ∧
    decimalValue (hotp key counterBytes) =
      fromBe (slice (hmacSha1 key counterBytes) (dtOffset (hmacSha1 key counterBytes))
        (dtOffset (hmacSha1 key counterBytes) + 4)) % 2 ^ 31 % 1000000

/-! ### The time step -/

/-- R163: the step index is the greatest q with q*ts ≤ now; it fits 64 bits, is at most |now| in size for now ≥ 0 and
between −2^63 and −1 for now < 0.
The spec marks R163 as its own inference (`[derived]`). -/
def Obligations.StepIndexIsFloor : Prop :=
  ∀ now ts : S64, 1 ≤ ts.toInt →
    (stepIndex now ts).toInt * ts.toInt ≤ now.toInt ∧
    (∀ q : Int, q * ts.toInt ≤ now.toInt → q ≤ (stepIndex now ts).toInt) ∧
    (0 ≤ now.toInt → |(stepIndex now ts).toInt| ≤ |now.toInt|) ∧
    (now.toInt < 0 → -2 ^ 63 ≤ (stepIndex now ts).toInt ∧ (stepIndex now ts).toInt ≤ -1)

/-- R164, R180: floor and truncation agree for now ≥ 0, and for now < 0 exactly when the step divides the clock value;
otherwise the floor is one less. The model takes the floor, as 90_conflicts C3 does. -/
def Obligations.StepIndexAgainstTruncation : Prop :=
  ∀ now ts : S64, 1 ≤ ts.toInt →
    (0 ≤ now.toInt ∨ ts.toInt ∣ now.toInt → (stepIndex now ts).toInt = Int.tdiv now.toInt ts.toInt) ∧
    (now.toInt < 0 → ¬ ts.toInt ∣ now.toInt →
      (stepIndex now ts).toInt = Int.tdiv now.toInt ts.toInt - 1)

/-- R165: the corner cases of the step index: clock 0, a clock below TIMESTEP, clock −1, TIMESTEP 1, and the largest
TIMESTEP at both ends of the clock. -/
def Obligations.StepIndexCorners : Prop :=
  ∀ now ts : S64, 1 ≤ ts.toInt →
    (0 ≤ now.toInt → now.toInt < ts.toInt → stepIndex now ts = 0) ∧
    (now.toInt = -1 → stepIndex now ts = -1) ∧
    (ts.toInt = 1 → stepIndex now ts = now) ∧
    (ts.toInt = 2 ^ 63 - 1 →
      (now.toInt = 2 ^ 63 - 1 → stepIndex now ts = 1) ∧
      (-(2 ^ 63 - 1) ≤ now.toInt → now.toInt ≤ -1 → stepIndex now ts = -1) ∧
      (now.toInt = -2 ^ 63 → stepIndex now ts = -2))

/-- R166: the counter is the 64-bit sum with the carry dropped: the `S64` congruent to S + o modulo 2^64. -/
def Obligations.CounterWrapsModulo64Bits : Prop :=
  ∀ S o : S64, counterAt S o.toInt = S + o ∧
    ((counterAt S o.toInt).toInt - (S.toInt + o.toInt)) % 2 ^ 64 = 0 ∧
    (-2 ^ 63 ≤ S.toInt + o.toInt → S.toInt + o.toInt ≤ 2 ^ 63 - 1 →
      (counterAt S o.toInt).toInt = S.toInt + o.toInt)

/-- R169: two GENTOTP commands with the same key and offset whose clock samples give the same step index under the TIMESTEP
each sees give the same response.
The spec marks R169 as its own inference (`[derived]`). -/
def Obligations.SameStepSameCode : Prop :=
  ∀ (key : Bytes) (o : S64) (s s' : State),
    stepIndex (nowValue s) s.timestep = stepIndex (nowValue s') s'.timestep →
    ∃ (r : Bytes) (t t' : State), exec (.gentotp key o) s = .next t ∧ exec (.gentotp key o) s' = .next t' ∧
      t.responses = s.responses ++ [r] ∧ t'.responses = s'.responses ++ [r]

/-! ### The window -/

/-- R171: a candidate matches only if it is exactly six ASCII digits, and no candidate is an error: any other is answered
false. -/
def Obligations.OnlySixDigitsCanMatch : Prop :=
  ∀ (key candidate : Bytes) (s : State), (candidate.length ≠ 6 ∨ ∃ b ∈ candidate, ¬ IsDigit b) →
    exec (.verify key candidate) s = .next { s with
      nowPort := s.nowPort.tail
      samples := s.samples + 1
      responses := s.responses ++ [[0x00, 0x00]] }

/-- R173: VERIFY answers true exactly when the candidate is one of the three codes for the one sample and the one TIMESTEP;
so a code generated at step S verifies whenever the step index at verification is S − 1, S or S + 1.
The spec marks R173 as its own inference (`[derived]`). -/
def Obligations.VerifyDecidesTheWindow : Prop :=
  (∀ (key candidate : Bytes) (s : State), ∃ t : State, exec (.verify key candidate) s = .next t ∧
    (t.responses = s.responses ++ [[0x00, 0x01]] ↔
      candidate = totp key (nowValue s) s.timestep (-1) ∨ candidate = totp key (nowValue s) s.timestep 0 ∨
      candidate = totp key (nowValue s) s.timestep 1)) ∧
  (∀ (key : Bytes) (n : S64) (s : State),
    (stepIndex (nowValue s) s.timestep = stepIndex n s.timestep - 1 ∨
      stepIndex (nowValue s) s.timestep = stepIndex n s.timestep ∨
      stepIndex (nowValue s) s.timestep = stepIndex n s.timestep + 1) →
    ∃ t : State, exec (.verify key (totp key n s.timestep 0)) s = .next t ∧
      t.responses = s.responses ++ [[0x00, 0x01]])

/-- R174, R170: the window is the three offsets −1, 0, +1; leaving the loop at the first match, and the order of the offsets,
change no result.
The spec marks R174 as its own inference (`[derived]`). -/
def Obligations.ShortCircuitIsUnobservable : Prop :=
  windowOffsets = [-1, 0, 1] ∧
  ∀ (key candidate : Bytes) (S : S64) (ds ds' : List Int),
    (verifyLoop key candidate S ds = true ↔
      ∃ d ∈ ds, hotp key (ctrser (counterAt S d)) = candidate) ∧
    (ds.Perm ds' → verifyLoop key candidate S ds = verifyLoop key candidate S ds')

/-! ### CREATETOTP -/

/-- R177: the key of an offset: a `-` exactly for a negative offset, then digits that spell the magnitude, with no leading
zero but the single `0` for zero; different offsets have different keys. -/
def Obligations.OffsetKeysAreDecimal : Prop :=
  (∀ o : S64, ∃ digits : Bytes,
    decKey o = (if o.toInt < 0 then 0x2D :: digits else digits) ∧ digits ≠ [] ∧
    (∀ b ∈ digits, IsDigit b) ∧ decimalValue digits = o.toInt.natAbs ∧
    (digits.head? = some 0x30 → digits = [0x30])) ∧
  (∀ o o' : S64, decKey o = decKey o' → o = o')

/-- R178: the mapping's keys are the keys of the entries in order of first occurrence, each once, and each key holds the
code of its last entry. -/
def Obligations.MappingKeepsFirstPlaceAndLastCode : Prop :=
  ∀ entries : List (S64 × Bytes),
    (assembleMapping entries).map Prod.fst = (entries.map fun e => decKey e.1).eraseDups ∧
    ∀ o : S64, (assembleMapping entries).lookup (decKey o) =
      (entries.reverse.find? fun e => e.1 == o).map Prod.snd

/-- R176, R80, R179: CREATETOTP on an idle engine never fails: it issues one GENTOTP per offset in order, each with a sample of
its own, assembles their codes, and leaves TIMESTEP as it was. That the host issues one packet at a time to an idle engine and
that each offset has a sample of its own is log entry 10 (the spec's decision D14). -/
def Obligations.CreateTotpRunsOneGentotpPerOffset : Prop :=
  ∀ (key : Bytes) (offsets : List S64) (s : State), key.length ≤ 65535 → s.input = [] →
    createTotp key offsets s = some (assembleMapping (sampledEntries key offsets s),
      { s with
        nowPort := s.nowPort.drop offsets.length
        samples := s.samples + offsets.length
        responses := s.responses ++ (sampledEntries key offsets s).map fun e => 0x00 :: e.2 })
end

