-- ==== Sys2Proof/Laws/Decode.lean ====
section
/-! SUPPORT. The opcode map and the shape of the decoder, said once. -/

namespace Sys2Proof

@[simp] theorem opcodeOf_opcodeByte (o : Opcode) : opcodeOf (opcodeByte o) = some o := by cases o <;> rfl

theorem opcodeOf_eq_some {op : Byte} {o : Opcode} (h : opcodeOf op = some o) : op = opcodeByte o := by
  apply BitVec.eq_of_toNat_eq
  unfold opcodeOf at h
  split at h <;> (cases h; try simpa [opcodeByte])

theorem opcodeOf_eq_none {op : Byte} : opcodeOf op = none ↔ op.toNat = 0 ∨ 8 ≤ op.toNat := by
  unfold opcodeOf
  split <;> simp_all
  omega

/-- A packet is decoded by its opcode's format and operand assembly, or it is rejected. -/
theorem decode_cons (op : Byte) (body : Bytes) :
    decode (op :: body) =
      match opcodeOf op with
      | none => .error .illegalOpcode
      | some o =>
        if lengthLaw (formatOf o) (op :: body) then .ok (operandsOf o (op :: body)) else .error .malformed :=
  rfl

end Sys2Proof
end

