-- ==== Sys2Proof/Laws/Operands.lean ====
section
/-! SUPPORT. The byte-order helpers: lengths, and `be` and `fromBe` as inverses of each other. -/

namespace Sys2Proof.Machine

@[simp] theorem be_length (n v : Nat) : (be n v).length = n := by simp [be]

@[simp] theorem rep_length (b : Byte) (n : Nat) : (rep b n).length = n := by simp [rep]

theorem slice_length (p : Bytes) (a b : Nat) : (slice p a b).length = min (b - a) (p.length - a) := by
  simp [slice]

/-- The most significant byte first, then the rest. -/
theorem be_succ (n v : Nat) : be (n + 1) v = BitVec.ofNat 8 (v >>> (8 * n)) :: be n v := by
  simp only [be, List.range_succ_eq_map, List.map_cons, List.map_map]
  congr 1
  apply List.map_congr_left
  intro k _
  simp only [Function.comp]
  congr 3
  omega

/-- Only the low `8n` bits of the number are written. -/
theorem be_mod (n v : Nat) : be n (v % 2 ^ (8 * n)) = be n v := by
  apply List.map_congr_left
  intro k hk
  rw [List.mem_range] at hk
  apply BitVec.eq_of_toNat_eq
  simp only [BitVec.toNat_ofNat, Nat.shiftRight_eq_div_pow]
  have hsplit : 2 ^ (8 * n) = 2 ^ (8 * (n - 1 - k)) * 2 ^ (8 * (k + 1)) := by
    rw [← pow_add]; congr 1; omega
  rw [hsplit, Nat.mod_mul_right_div_self, Nat.mod_mod_of_dvd _ (pow_dvd_pow 2 (by omega))]

theorem fromBe_be (n v : Nat) : fromBe (be n v) = v % 2 ^ (8 * n) := by
  induction n with
  | zero => simp [be, fromBe, Nat.mod_one]
  | succ n ih =>
    rw [be_succ, fromBe, ih, be_length, BitVec.toNat_ofNat, Nat.shiftRight_eq_div_pow,
      show 8 * (n + 1) = 8 * n + 8 by ring, pow_add, Nat.mod_mul, Nat.mul_comm, Nat.add_comm]

theorem fromBe_lt (b : Bytes) : fromBe b < 2 ^ (8 * b.length) := by
  induction b with
  | nil => simp [fromBe]
  | cons x rest ih =>
    have hx := x.isLt
    rw [fromBe, List.length_cons, show 8 * (rest.length + 1) = 8 * rest.length + 8 by ring, pow_add]
    nlinarith

theorem be_fromBe (b : Bytes) : be b.length (fromBe b) = b := by
  induction b with
  | nil => rfl
  | cons x rest ih =>
    have hlt := fromBe_lt rest
    rw [List.length_cons, be_succ]
    congr 1
    · apply BitVec.eq_of_toNat_eq
      rw [BitVec.toNat_ofNat, Nat.shiftRight_eq_div_pow, fromBe, Nat.add_comm,
        Nat.add_mul_div_right _ _ (by positivity), Nat.div_eq_of_lt hlt, Nat.zero_add,
        Nat.mod_eq_of_lt x.isLt]
    · rw [← be_mod, fromBe, Nat.add_comm, Nat.add_mul_mod_self_right, Nat.mod_eq_of_lt hlt, ih]

/-- A slice that starts after `a` and is as long as `b` is `b`. -/
theorem slice_middle (a b c : Bytes) : slice (a ++ (b ++ c)) a.length (a.length + b.length) = b := by
  simp [slice]

/-- A length that fits a `len16` field is read back. -/
theorem fromBe_be_two {n : Nat} (h : n ≤ 65535) : fromBe (be 2 n) = n := by
  rw [fromBe_be]; omega

/-- An `s64` field is read back. -/
theorem toS64_fromBe_be_eight (c : S64) : toS64 (fromBe (be 8 c.toNat)) = c := by
  rw [fromBe_be, toS64, Nat.mod_eq_of_lt c.isLt, BitVec.ofNat_toNat, BitVec.setWidth_eq]

end Sys2Proof.Machine
end

