-- ==== Sys2Proof/Laws/WellFormed.lean ====
section
/-! SUPPORT. The checks of WellFormed as propositions. -/

namespace Sys2Proof

@[simp] theorem fitsLen16_iff (b : Bytes) : fitsLen16 b = true ↔ b.length ≤ 65535 := by
  rw [fitsLen16, decide_eq_true_eq]
  rfl

@[simp] theorem wellFormed_b32enc (data : Bytes) :
    wellFormed (.b32enc data) = true ↔ data.length ≤ 65535 := by
  simp [wellFormed]

@[simp] theorem wellFormed_ctrser (c : S64) : wellFormed (.ctrser c) = true := rfl

@[simp] theorem wellFormed_hotp (key m : Bytes) :
    wellFormed (.hotp key m) = true ↔ key.length ≤ 65535 ∧ m.length = 8 := by
  rw [wellFormed, Bool.and_eq_true, decide_eq_true_eq, fitsLen16_iff]
  rfl

@[simp] theorem wellFormed_setstep (q : S64) : wellFormed (.setstep q) = true := rfl

@[simp] theorem wellFormed_stepidx : wellFormed .stepidx = true := rfl

@[simp] theorem wellFormed_gentotp (key : Bytes) (o : S64) :
    wellFormed (.gentotp key o) = true ↔ key.length ≤ 65535 := by
  simp [wellFormed]

@[simp] theorem wellFormed_verify (key candidate : Bytes) :
    wellFormed (.verify key candidate) = true ↔ key.length ≤ 65535 ∧ candidate.length ≤ 65535 := by
  simp [wellFormed]

end Sys2Proof
end

