-- ==== Sys2Proof/Laws/PerInstr.lean ====
section
/-! SUPPORT. Per-instruction statements about the commands as syntax. -/

namespace Sys2Proof.Laws.PacketShape

open Sys2Proof Sys2Proof.Machine

/-- R60, R62, R77: the packet of a well-formed command starts with its opcode byte, has the length its format implies,
and is 1 to 131 075 bytes long. -/
def Statement (c : Instr) : Prop :=
  wellFormed c = true →
    (encode c).head? = some (opcodeByte (opcodeOfInstr c)) ∧ (encode c).length = packetLength c ∧
      1 ≤ packetLength c ∧ packetLength c ≤ 131075

theorem b32enc (data : Bytes) : Statement (.b32enc data) := by
  intro h
  simp at h
  simp [encode, encodeFields, packetLength]
  omega

theorem ctrser (counter : S64) : Statement (.ctrser counter) := by
  intro _
  simp [encode, encodeFields, packetLength]

theorem hotp (key counterBytes : Bytes) : Statement (.hotp key counterBytes) := by
  intro h
  simp at h
  simp [encode, encodeFields, packetLength, h.2]
  omega

theorem setstep (seconds : S64) : Statement (.setstep seconds) := by
  intro _
  simp [encode, encodeFields, packetLength]

theorem stepidx : Statement .stepidx := by
  intro _
  simp [encode, encodeFields, packetLength]

theorem gentotp (key : Bytes) (stepOffset : S64) : Statement (.gentotp key stepOffset) := by
  intro h
  simp at h
  simp [encode, encodeFields, packetLength]
  omega

theorem verify (key candidate : Bytes) : Statement (.verify key candidate) := by
  intro h
  simp at h
  simp [encode, encodeFields, packetLength]
  omega

end Sys2Proof.Laws.PacketShape
end

