-- ==== Sys2Proof/Laws/State.lean ====
section
/-! SUPPORT. One lemma per field per update, so that no proof unfolds a record update. -/

namespace Sys2Proof.Machine

@[simp] theorem respond_timestep (st : Status) (p : Bytes) (s : State) :
    (respond st p s).timestep = s.timestep := rfl
@[simp] theorem respond_input (st : Status) (p : Bytes) (s : State) : (respond st p s).input = s.input := rfl
@[simp] theorem respond_responses (st : Status) (p : Bytes) (s : State) :
    (respond st p s).responses = s.responses ++ [statusCode st :: p] := rfl
@[simp] theorem respond_nowPort (st : Status) (p : Bytes) (s : State) :
    (respond st p s).nowPort = s.nowPort := rfl
@[simp] theorem respond_samples (st : Status) (p : Bytes) (s : State) :
    (respond st p s).samples = s.samples := rfl

@[simp] theorem raise_timestep (e : Status) (s : State) : (raise e s).timestep = s.timestep := rfl
@[simp] theorem raise_input (e : Status) (s : State) : (raise e s).input = s.input := rfl
@[simp] theorem raise_responses (e : Status) (s : State) :
    (raise e s).responses = s.responses ++ [[statusCode e]] := rfl
@[simp] theorem raise_nowPort (e : Status) (s : State) : (raise e s).nowPort = s.nowPort := rfl
@[simp] theorem raise_samples (e : Status) (s : State) : (raise e s).samples = s.samples := rfl

@[simp] theorem refusePacket_timestep (r : Reject) (s : State) : (refusePacket r s).timestep = s.timestep := rfl
@[simp] theorem refusePacket_input (r : Reject) (s : State) : (refusePacket r s).input = s.input := rfl
@[simp] theorem refusePacket_responses (r : Reject) (s : State) :
    (refusePacket r s).responses = s.responses ++ [[statusCode (rejectStatus r)]] := rfl
@[simp] theorem refusePacket_nowPort (r : Reject) (s : State) : (refusePacket r s).nowPort = s.nowPort := rfl
@[simp] theorem refusePacket_samples (r : Reject) (s : State) : (refusePacket r s).samples = s.samples := rfl

@[simp] theorem takeSample_timestep (s : State) : (takeSample s).timestep = s.timestep := rfl
@[simp] theorem takeSample_input (s : State) : (takeSample s).input = s.input := rfl
@[simp] theorem takeSample_responses (s : State) : (takeSample s).responses = s.responses := rfl
@[simp] theorem takeSample_nowPort (s : State) : (takeSample s).nowPort = s.nowPort.tail := rfl
@[simp] theorem takeSample_samples (s : State) : (takeSample s).samples = s.samples + 1 := rfl

@[simp] theorem writeTimestep_timestep (v : S64) (s : State) : (writeTimestep v s).timestep = v := rfl
@[simp] theorem writeTimestep_input (v : S64) (s : State) : (writeTimestep v s).input = s.input := rfl
@[simp] theorem writeTimestep_responses (v : S64) (s : State) : (writeTimestep v s).responses = s.responses := rfl
@[simp] theorem writeTimestep_nowPort (v : S64) (s : State) : (writeTimestep v s).nowPort = s.nowPort := rfl
@[simp] theorem writeTimestep_samples (v : S64) (s : State) : (writeTimestep v s).samples = s.samples := rfl

@[simp] theorem resetEngine_timestep (s : State) : (resetEngine s).timestep = Config.defaultTimestep := rfl
@[simp] theorem resetEngine_input (s : State) : (resetEngine s).input = s.input := rfl
@[simp] theorem resetEngine_responses (s : State) : (resetEngine s).responses = s.responses := rfl
@[simp] theorem resetEngine_nowPort (s : State) : (resetEngine s).nowPort = s.nowPort := rfl
@[simp] theorem resetEngine_samples (s : State) : (resetEngine s).samples = s.samples := rfl

@[simp] theorem present_timestep (p : Bytes) (s : State) : (present p s).timestep = s.timestep := rfl
@[simp] theorem present_input (p : Bytes) (s : State) : (present p s).input = s.input ++ [.packet p] := rfl
@[simp] theorem present_responses (p : Bytes) (s : State) : (present p s).responses = s.responses := rfl
@[simp] theorem present_nowPort (p : Bytes) (s : State) : (present p s).nowPort = s.nowPort := rfl
@[simp] theorem present_samples (p : Bytes) (s : State) : (present p s).samples = s.samples := rfl

@[simp] theorem placePacket_timestep (p : Bytes) (s : State) : (placePacket p s).timestep = s.timestep := rfl
@[simp] theorem placePacket_input (p : Bytes) (s : State) : (placePacket p s).input = .packet p :: s.input := rfl
@[simp] theorem placePacket_responses (p : Bytes) (s : State) : (placePacket p s).responses = s.responses := rfl
@[simp] theorem placePacket_nowPort (p : Bytes) (s : State) : (placePacket p s).nowPort = s.nowPort := rfl
@[simp] theorem placePacket_samples (p : Bytes) (s : State) : (placePacket p s).samples = s.samples := rfl

/-- The clock sample depends on the port and on the count of samples alone. -/
theorem nowValue_eq_headD (s : State) : nowValue s = s.nowPort.headD (Config.clockDraw s.samples) := by
  unfold nowValue
  cases s.nowPort <;> rfl

@[simp] theorem nowValue_respond (st : Status) (p : Bytes) (s : State) :
    nowValue (respond st p s) = nowValue s := rfl
@[simp] theorem nowValue_writeTimestep (v : S64) (s : State) :
    nowValue (writeTimestep v s) = nowValue s := rfl
@[simp] theorem readTimestep_eq (s : State) : readTimestep s = s.timestep := rfl

end Sys2Proof.Machine
end

