-- ==== Sys2Proof/Laws/Step.lean ====
section
/-! SUPPORT. Everything a meaning can do, and everything a step can do, said once. -/

namespace Sys2Proof.Machine

/-- A command emits one response; beyond that it either leaves the state, or uses up one clock sample (with status OK),
or is a SETSTEP with a positive operand and writes it. -/
theorem exec_cases {c : Instr} {s t : State} (h : exec c s = .next t) :
    (∃ payload, t = respond .ok payload s ∧ ∀ q, c ≠ .setstep q) ∨
    (∃ payload, t = respond .ok payload (takeSample s) ∧ ∀ q, c ≠ .setstep q) ∨
    (∃ q, c = .setstep q ∧ q.toInt ≤ 0 ∧ t = raise .configError s) ∨
    (∃ q, c = .setstep q ∧ 0 < q.toInt ∧ t = respond .ok [] (writeTimestep q s)) := by
  cases c with
  | b32enc data => cases h; exact .inl ⟨_, rfl, nofun⟩
  | ctrser counter => cases h; exact .inl ⟨_, rfl, nofun⟩
  | hotp key m => cases h; exact .inl ⟨_, rfl, nofun⟩
  | setstep q =>
    simp only [exec, execSetstep] at h
    split at h <;> cases h
    · exact .inr (.inr (.inl ⟨q, rfl, ‹_›, rfl⟩))
    · exact .inr (.inr (.inr ⟨q, rfl, by omega, rfl⟩))
  | stepidx => cases h; exact .inr (.inl ⟨_, rfl, nofun⟩)
  | gentotp key o => cases h; exact .inr (.inl ⟨_, rfl, nofun⟩)
  | verify key cand => cases h; exact .inr (.inl ⟨_, rfl, nofun⟩)

/-- A step finds nothing, a reset, a packet that spells a command, or a packet that spells none. -/
theorem step_cases {s t : State} (h : step s = .next t) :
    (s.input = [] ∧ t = s) ∨
    (∃ rest, s.input = .rst :: rest ∧ t = resetEngine { s with input := rest }) ∨
    (∃ p rest c, s.input = .packet p :: rest ∧ decode p = .ok c ∧ exec c { s with input := rest } = .next t) ∨
    (∃ p rest r, s.input = .packet p :: rest ∧ decode p = .error r ∧
      t = refusePacket r { s with input := rest }) := by
  unfold step fetch at h
  split at h
  · rename_i heq
    split at heq <;> cases heq
    cases h
    exact .inl ⟨‹_›, rfl⟩
  · rename_i heq
    split at heq <;> cases heq
    cases h
    exact .inr (.inl ⟨_, ‹_›, rfl⟩)
  · rename_i heq
    split at heq
    · cases heq
    · cases heq
    · simp only [Prod.mk.injEq, Fetched.command.injEq] at heq
      obtain ⟨hd, rfl⟩ := heq
      exact .inr (.inr (.inl ⟨_, _, _, ‹_›, hd, h⟩))
  · rename_i heq
    split at heq
    · cases heq
    · cases heq
    · simp only [Prod.mk.injEq, Fetched.command.injEq] at heq
      obtain ⟨hd, rfl⟩ := heq
      cases h
      exact .inr (.inr (.inr ⟨_, _, _, ‹_›, hd, rfl⟩))

end Sys2Proof.Machine
end

