-- ==== Sys2Proof/Tests/Slice0.lean ====
section
/-! SUPPORT. Tests with expected values from spec/ (the file and section is named at each), and the witnesses for the
hypotheses of the statements in Certificates/Slice0/Obligations.lean. -/

namespace Sys2Proof.Tests

open Sys2Proof Sys2Proof.Machine

/-! ### Helpers -/

/-- The reference secret K20 of 95_test_vectors. -/
def k20 : Bytes := be 20 0x3132333435363738393031323334353637383930

/-- A state with TIMESTEP `ts`, one clock sample `now` and one packet. -/
def engine (ts now : S64) (p : Bytes) : State :=
  { timestep := ts, input := [.packet p], responses := [], nowPort := [now], samples := 0 }

/-- The responses after one step. -/
def answers (s : State) : List Bytes :=
  match step s with
  | .next t => t.responses
  | _ => []

/-- TIMESTEP and the count of samples after one step. -/
def after (s : State) : Option (S64 × Nat) :=
  match step s with
  | .next t => some (t.timestep, t.samples)
  | _ => none

/-! ### WellFormed refuses (30_encoding R79) -/

/-- One byte more than a `len16` field can say. -/
theorem longOperand_length : ¬ (List.replicate 65536 (0 : Byte)).length ≤ 65535 := by
  rw [List.length_replicate]; omega

theorem test_wellFormed_b32enc_too_long : ¬ wellFormed (.b32enc (List.replicate 65536 0)) = true :=
  fun h => longOperand_length ((wellFormed_b32enc _).1 h)
theorem test_wellFormed_hotp_seven_bytes : ¬ wellFormed (.hotp [] [1, 2, 3, 4, 5, 6, 7]) = true := by decide
theorem test_wellFormed_hotp_key_too_long : ¬ wellFormed (.hotp (List.replicate 65536 0) (be 8 0)) = true :=
  fun h => longOperand_length ((wellFormed_hotp _ _).1 h).1
theorem test_wellFormed_gentotp_key_too_long : ¬ wellFormed (.gentotp (List.replicate 65536 0) 0) = true :=
  fun h => longOperand_length ((wellFormed_gentotp _ _).1 h)
theorem test_wellFormed_verify_key_too_long : ¬ wellFormed (.verify (List.replicate 65536 0) []) = true :=
  fun h => longOperand_length ((wellFormed_verify _ _).1 h).1
theorem test_wellFormed_verify_candidate_too_long : ¬ wellFormed (.verify [] (List.replicate 65536 0)) = true :=
  fun h => longOperand_length ((wellFormed_verify _ _).1 h).2
theorem test_wellFormed_longest : wellFormed (.b32enc (List.replicate 65535 0)) = true :=
  (wellFormed_b32enc _).2 (by rw [List.length_replicate])

/-! ### Decoding, packets of 30_encoding section 7 and 95_test_vectors section 2.6 -/

theorem test_decode_b32enc :
    decode [0x01, 0x00, 0x06, 0x66, 0x6F, 0x6F, 0x62, 0x61, 0x72]
      = .ok (.b32enc [0x66, 0x6F, 0x6F, 0x62, 0x61, 0x72]) := by decide
theorem test_decode_ctrser :
    decode [0x02, 0x00, 0x00, 0x00, 0x00, 0x02, 0x35, 0x23, 0xEC] = .ok (.ctrser 37037036) := by decide
theorem test_decode_hotp :
    decode ([0x03, 0x00, 0x14] ++ k20 ++ [0, 0, 0, 0, 0, 0, 0, 1]) = .ok (.hotp k20 [0, 0, 0, 0, 0, 0, 0, 1]) := by decide
theorem test_decode_setstep :
    decode [0x04, 0xFF, 0xFF, 0xFF, 0xFF, 0xFF, 0xFF, 0xFF, 0xFB] = .ok (.setstep (-5)) := by decide
theorem test_decode_stepidx : decode [0x05] = .ok .stepidx := by decide
theorem test_decode_gentotp :
    decode ([0x06, 0x00, 0x14] ++ k20 ++ [0xFF, 0xFF, 0xFF, 0xFF, 0xFF, 0xFF, 0xFF, 0xFF])
      = .ok (.gentotp k20 (-1)) := by decide
theorem test_decode_verify :
    decode ([0x07, 0x00, 0x14] ++ k20 ++ [0x00, 0x06, 0x32, 0x38, 0x37, 0x30, 0x38, 0x32])
      = .ok (.verify k20 [0x32, 0x38, 0x37, 0x30, 0x38, 0x32]) := by decide
theorem test_decode_empty : decode [] = .error .malformed := by decide
theorem test_decode_illegal_wins : decode [0x09, 0x01, 0x02, 0x03] = .error .illegalOpcode := by decide
theorem test_decode_setstep_short : decode [0x04, 0x00] = .error .malformed := by decide
theorem test_decode_inside_clen : decode [0x07, 0x00, 0x01, 0x41, 0x00] = .error .malformed := by decide
theorem test_decode_beyond_clen : decode [0x07, 0, 0, 0, 0, 0] = .error .malformed := by decide
theorem test_decode_inside_key : decode [0x03, 0x00, 0x02, 0x41] = .error .malformed := by decide

/-- The rows of the opcode table, operand bytes zero: `01 00 00`, `02` and eight zeros, and so on. -/
theorem test_table_words :
    (List.range 9).map (decodeTableWord 8) =
      [none, some (.b32enc []), some (.ctrser 0), some (.hotp [] (rep 0 8)), some (.setstep 0), some .stepidx,
        some (.gentotp [] 0), some (.verify [] []), none] := by decide

theorem test_table_word_runs_after_reset :
    answers (State.reset.withFetchWord 8 1) = [[0x00]] := by decide

/-! ### One step of each command (95_test_vectors section 2) -/

theorem test_b32enc_foobar :
    answers (engine 30 0 [0x01, 0x00, 0x06, 0x66, 0x6F, 0x6F, 0x62, 0x61, 0x72])
      = [[0x00, 0x4D, 0x5A, 0x58, 0x57, 0x36, 0x59, 0x54, 0x42, 0x4F, 0x49]] := by decide
theorem test_b32enc_no_ninth_symbol : answers (engine 30 0 [0x01, 0x00, 0x05, 0, 0, 0, 0, 0])
      = [0x00 :: List.replicate 8 0x41] := by decide
theorem test_ctrser_negative : answers (engine 30 0 (0x02 :: be 8 (2 ^ 64 - 256)))
      = [[0x00, 0xFF, 0xFF, 0xFF, 0xFF, 0xFF, 0xFF, 0xFF, 0x00]] := by decide
theorem test_hotp_reference_vector_1 :
    answers (engine 30 0 ([0x03, 0x00, 0x14] ++ k20 ++ be 8 1))
      = [[0x00, 0x32, 0x38, 0x37, 0x30, 0x38, 0x32]] := by decide +kernel
theorem test_hotp_key_of_65_bytes :
    hotp ((List.range 65).map (BitVec.ofNat 8)) (be 8 1) = [0x34, 0x32, 0x38, 0x35, 0x32, 0x31] := by
  decide +kernel
theorem test_setstep_60 :
    after (engine 30 59 (0x04 :: be 8 60)) = some (60, 0) ∧ answers (engine 30 59 (0x04 :: be 8 60)) = [[0x00]] := by
  decide
theorem test_setstep_bit_63 :
    after (engine 1 59 (0x04 :: be 8 (2 ^ 63))) = some (1, 0) ∧
      answers (engine 1 59 (0x04 :: be 8 (2 ^ 63))) = [[0x01]] := by decide
theorem test_stepidx_59 :
    answers (engine 30 59 [0x05]) = [[0x00, 0, 0, 0, 0, 0, 0, 0, 1]] ∧
      after (engine 30 59 [0x05]) = some (30, 1) := by decide
theorem test_stepidx_negative_clock_floors :
    answers (engine 30 (-31) [0x05]) = [[0x00, 0xFF, 0xFF, 0xFF, 0xFF, 0xFF, 0xFF, 0xFF, 0xFE]] := by decide
theorem test_gentotp_offset_minus_one :
    answers (engine 30 59 ([0x06, 0x00, 0x14] ++ k20 ++ be 8 (2 ^ 64 - 1)))
      = [[0x00, 0x37, 0x35, 0x35, 0x32, 0x32, 0x34]] := by decide +kernel
theorem test_gentotp_wraps :
    answers (engine 1 (BitVec.ofNat 64 (2 ^ 63 - 1)) ([0x06, 0x00, 0x14] ++ k20 ++ be 8 1))
      = [[0x00, 0x39, 0x35, 0x39, 0x36, 0x31, 0x36]] := by decide +kernel
theorem test_verify_offset_plus_one :
    answers (engine 30 59 ([0x07, 0x00, 0x14] ++ k20 ++ [0x00, 0x06, 0x33, 0x35, 0x39, 0x31, 0x35, 0x32]))
      = [[0x00, 0x01]] := by decide +kernel
theorem test_verify_leading_zero_is_not_numeric :
    answers (engine 30 59 ([0x07, 0x00, 0x14] ++ k20 ++ [0x00, 0x07, 0x30, 0x32, 0x38, 0x37, 0x30, 0x38, 0x32]))
      = [[0x00, 0x00]] := by decide +kernel
theorem test_illegal_opcode : answers (engine 30 0 [0x08, 0x00]) = [[0x80]] := by decide
theorem test_malformed : answers (engine 30 0 [0x01, 0x00, 0x05, 0x66, 0x6F, 0x6F, 0x62]) = [[0x81]] := by decide

/-! ### Unit functions (42_sha1_hmac section 3, 95_test_vectors 2.2 to 2.5) -/

/-- 00_scope R6, `B32_ALPHABET` as the spec prints it. -/
theorem test_b32Alphabet :
    Config.b32Alphabet = "ABCDEFGHIJKLMNOPQRSTUVWXYZ234567".toList.map fun c => BitVec.ofNat 8 c.toNat := by decide

theorem test_sha1_abc : sha1 [0x61, 0x62, 0x63] = be 20 0xa9993e364706816aba3e25717850c26c9cd0d89d := by
  decide +kernel
theorem test_sha1_schedule_abc :
    (sha1Schedule (sha1Pad [0x61, 0x62, 0x63])).getD 79 0 = 0x822E0879 := by decide +kernel
theorem test_sha1_two_blocks : sha1 (rep 0x61 56) = be 20 0xc2db330f6083854c99d4b5bfb6e8f29f201be699 := by
  decide +kernel
theorem test_hmac_empty_key :
    hmacSha1 [] (be 8 0) = be 20 0xdab69ad98e28764f977ee2487e4f3f6873b2a297 := by decide +kernel
theorem test_dt_sign_bit_masked :
    dt (rep 0 15 ++ [0x80, 0, 0, 0, 0x0F]) = 0 ∧ dt (rep 0xFF 20) = 2147483647 := by decide
theorem test_dt_rfc_example :
    fmt6 (reduceCode (dt (be 20 0x1f8698690e02ca16618550ef7f19da8e945b555a))) =
      [0x38, 0x37, 0x32, 0x39, 0x32, 0x31] := by decide
theorem test_fmt6_leading_zeros : fmt6 3784 = [0x30, 0x30, 0x33, 0x37, 0x38, 0x34] := by decide
theorem test_stepIndex_extremes :
    stepIndex (BitVec.ofInt 64 (-2 ^ 63)) (BitVec.ofNat 64 (2 ^ 63 - 1)) = -2 ∧
      stepIndex (BitVec.ofNat 64 (2 ^ 63 - 1)) 2 = 4611686018427387903 := by decide
/-- 95_test_vectors 2.5, last column, for now = −61. -/
theorem test_truncating_reading : stepQuotient .trunc (-61) 30 = -2 ∧ stepQuotient .floor (-61) 30 = -3 := by decide

/-! ### CREATETOTP and the assembler (95_test_vectors P5, 30_encoding section 7) -/

/-- P5 (b): the later duplicate overwrites the code and the key keeps its first place. -/
theorem test_mapping_duplicate :
    assembleMapping [(1, [0xAA]), (0, [0xBB]), (1, [0xCC])] = [([0x31], [0xCC]), ([0x30], [0xBB])] := by decide
theorem test_decKey_negative : decKey (-1) = [0x2D, 0x31] ∧ decKey 0 = [0x30] := by decide
theorem test_createTotp_empty : createTotp k20 [] State.reset = some ([], State.reset) := by decide
theorem test_assemble_text :
    (assembleText ".now 59 ; clock\nSETSTEP -5\nHOTP h'', h'0000000000000001'\nB32ENC \"f;o\" ; text".toList).map
        programPackets =
      some [[0x04, 0xFF, 0xFF, 0xFF, 0xFF, 0xFF, 0xFF, 0xFF, 0xFB],
        [0x03, 0x00, 0x00, 0, 0, 0, 0, 0, 0, 0, 1], [0x01, 0x00, 0x03, 0x66, 0x3B, 0x6F]] := by decide +kernel
theorem test_assemble_refuses_short_counter : assembleText "HOTP h'41', h'00'".toList = none := by decide +kernel
theorem test_render_response :
    renderResponse .quoted [0x00, 0x32, 0x38] = some "-> OK \"28\"".toList ∧
      renderResponse .bare [0x01] = some "-> CONFIG_ERROR".toList := by decide +kernel

/-! ### Witnesses: hypotheses of the statements, met together -/

/-- A state with something in every field. -/
def busy : State :=
  { timestep := 60, input := [.packet [0x05], .rst], responses := [[0x80]], nowPort := [59, 60], samples := 3 }

theorem witness_RstRestoresDefaultTimestep : ({ busy with input := [.rst] } : State).input = .rst :: [] := by decide
theorem witness_IdleEngineHoldsItsState : ({ busy with input := [] } : State).input = [] := by decide
theorem witness_StepRunsDecodedCommand :
    busy.input = .packet [0x05] :: [.rst] ∧ decode [0x05] = .ok .stepidx ∧
      decodeTableWord 8 5 = some .stepidx := ⟨rfl, rfl, by decide⟩
theorem witness_IllegalOpcodeIsAnswered :
    ((0x00 : Byte) = 0x00 ∧ (engine 30 0 [0x00]).input = .packet [0x00] :: []) ∧
      (0x08 ≤ (0x08 : Byte).toNat ∧ (engine 30 0 [0x08, 0x05]).input = .packet [0x08, 0x05] :: []) ∧
      0x08 ≤ (0xFF : Byte).toNat := by decide
theorem witness_MalformedPacketIsAnswered :
    (engine 30 0 []).input = .packet [] :: [] ∧
      BreaksLengthLaw 0x05 [0x05, 0x05] ∧ BreaksLengthLaw 0x02 [0x02] ∧ BreaksLengthLaw 0x04 [0x04, 0x00] ∧
      BreaksLengthLaw 0x01 [0x01, 0x00] ∧ BreaksLengthLaw 0x01 [0x01, 0x00, 0x00, 0x00] ∧
      BreaksLengthLaw 0x03 [0x03, 0x00, 0x02, 0x41] ∧ BreaksLengthLaw 0x06 [0x06, 0x00, 0x00] ∧
      BreaksLengthLaw 0x07 [0x07, 0x00, 0x01, 0x41, 0x00] ∧ BreaksLengthLaw 0x07 [0x07, 0, 0, 0, 0, 0] ∧
      (engine 30 0 [0x05, 0x05]).input = .packet [0x05, 0x05] :: [] := by
  refine ⟨rfl, ?_, ?_, ?_, ?_, ?_, ?_, ?_, ?_, ?_, rfl⟩ <;> decide
theorem witness_DecodeOfEncodeIsIdentity :
    wellFormed (.verify [0x41] [0x42]) = true ∧ wellFormed (.hotp k20 (be 8 1)) = true := by decide
theorem witness_AcceptedPacketIsItsEncoding :
    decode [0x07, 0x00, 0x01, 0x41, 0x00, 0x01, 0x42] = .ok (.verify [0x41] [0x42]) := by decide
theorem witness_commands_operand_lengths :
    k20.length ≤ 65535 ∧ (be 8 1).length = 8 ∧ (List.replicate 65535 (0 : Byte)).length ≤ 65535 := by
  refine ⟨by decide, by decide, ?_⟩
  rw [List.length_replicate]
theorem witness_SetstepWritesOrRefuses :
    (0 : S64).toInt ≤ 0 ∧ (BitVec.ofNat 64 (2 ^ 63) : S64).toInt ≤ 0 ∧ 0 < (1 : S64).toInt ∧
      0 < (BitVec.ofNat 64 (2 ^ 63 - 1) : S64).toInt := by decide
theorem witness_timed_commands_positive_timestep :
    1 ≤ (engine 1 59 [0x05]).timestep.toInt ∧ 1 ≤ busy.timestep.toInt ∧
      1 ≤ (engine (BitVec.ofNat 64 (2 ^ 63 - 1)) 59 [0x05]).timestep.toInt := by decide
theorem witness_TimedCommandsAnswerInEveryState :
    samplesClock .stepidx = true ∧ samplesClock (.gentotp k20 0) = true ∧ samplesClock (.verify k20 []) = true := by
  decide
/-- One state and next state for each clause: a raising SETSTEP, a writing one (both ends of the legal operands), a command
that samples nothing and the three that sample the clock. -/
theorem witness_CommandsWriteSampleAndRaiseAsTabled :
    exec (.setstep 0) busy = .next (raise .configError busy) ∧
      exec (.setstep 1) busy = .next (respond .ok [] (writeTimestep 1 busy)) ∧
      exec (.setstep (BitVec.ofNat 64 (2 ^ 63 - 1))) busy =
        .next (respond .ok [] (writeTimestep (BitVec.ofNat 64 (2 ^ 63 - 1)) busy)) ∧
      exec (.ctrser 1) busy = .next (respond .ok (ctrser 1) busy) ∧
      exec .stepidx busy = .next (respond .ok (be 8 0) (takeSample busy)) ∧
      (∃ t, exec (.gentotp k20 0) busy = .next t) ∧ (∃ t, exec (.verify k20 []) busy = .next t) :=
  ⟨rfl, rfl, rfl, rfl, rfl, ⟨_, rfl⟩, ⟨_, rfl⟩⟩
theorem witness_UntimedCommandsIgnoreTheState :
    samplesClock (.b32enc []) = false ∧ samplesClock (.setstep 0) = false := by decide
theorem witness_ResponseIsFunctionOfPacketTimestepSample :
    (engine 30 59 [0x05]).input = .packet [0x05] :: [] ∧
      ({ engine 30 59 [0x05] with samples := 7 } : State).input = .packet [0x05] :: [] ∧
      step (engine 30 59 [0x05]) =
        .next { engine 30 59 [0x05] with input := [], responses := [0x00 :: be 8 1], nowPort := [], samples := 1 } ∧
      step { engine 30 59 [0x05] with samples := 7 } =
        .next { engine 30 59 [0x05] with input := [], responses := [0x00 :: be 8 1], nowPort := [], samples := 8 } :=
  ⟨rfl, rfl, rfl, rfl⟩
theorem witness_EveryStepKeepsInvariant :
    Inv busy ∧ step busy = .next (respond .ok (be 8 0)
      { busy with input := [.rst], nowPort := [60], samples := 4 }) := ⟨by decide, rfl⟩
theorem witness_runs :
    runSteps [[0x05], [0x00]].length (boot [[0x05], [0x00]] [59]) =
      .next { State.reset with responses := [0x00 :: be 8 1, [0x80]], samples := 1 } ∧
    runSteps [[0x05]].length (boot [[0x05]] [59]) =
      .next { State.reset with responses := [0x00 :: be 8 1], samples := 1 } := ⟨rfl, rfl⟩
theorem witness_ErrorsLeaveNoTrace :
    (engine 30 0 [0x00]).input = .packet [0x00] :: [] ∧
      step (engine 30 0 [0x00]) = .next (refusePacket .illegalOpcode { engine 30 0 [0x00] with input := [] }) ∧
      (refusePacket .illegalOpcode { engine 30 0 [0x00] with input := [] }).responses = [] ++ [[0x80]] ∧
      ([0x80] : Bytes).head? ≠ some 0x00 := ⟨rfl, rfl, rfl, by decide⟩
theorem witness_ConfigErrorExactlyFromNonPositiveSetstep :
    (engine 30 0 (0x04 :: be 8 0)).input = .packet (0x04 :: be 8 0) :: [] ∧
      step (engine 30 0 (0x04 :: be 8 0)) = .next (raise .configError { engine 30 0 [] with input := [] }) ∧
      (raise .configError { engine 30 0 [] with input := [] }).responses = [] ++ [[0x01]] ∧
      decode (0x04 :: be 8 0) = .ok (.setstep 0) ∧ LegalTimestep (engine 30 0 []).timestep :=
  ⟨rfl, rfl, rfl, rfl, by decide⟩
theorem witness_SetstepAffectsLaterCommands :
    0 < (60 : S64).toInt ∧ exec (.setstep 60) busy = .next (respond .ok [] (writeTimestep 60 busy)) ∧
      -30 ≤ (BitVec.ofInt 64 (-30) : S64).toInt ∧ (29 : S64).toInt ≤ 29 := ⟨by decide, rfl, by decide, by decide⟩
theorem witness_SerializerIsBigEndianPattern : 0 ≤ 7 ∧ 7 ≤ 7 := by decide
theorem witness_Sha1ScheduleRecurrence : 0 < 16 ∧ 16 ≤ 16 ∧ 16 < 80 ∧ 79 < 80 := by decide
theorem witness_HmacKeyEquivalences :
    k20.length + 44 ≤ 64 ∧ 64 < (rep 0xAA 65).length ∧ (be 8 1).length = 8 := by decide
theorem witness_TruncationWindowLaw :
    (rep 0xFF 20).length = 20 ∧ (rep 0 19).length = 19 ∧ (0x1F : Byte) &&& 0x0F = 0xFF &&& 0x0F := by decide
theorem witness_FormatterSpellsSixDigits : 0 < 1000000 ∧ 999999 < 1000000 ∧ 5 ≤ 5 ∧ fmt6 7 = fmt6 7 := by decide
theorem witness_StepIndex_clauses :
    1 ≤ (1 : S64).toInt ∧ 0 ≤ (0 : S64).toInt ∧ (-1 : S64).toInt < 0 ∧ (0 : S64).toInt < (1 : S64).toInt ∧
      (30 : S64).toInt ∣ (-60 : S64).toInt ∧ ¬ (30 : S64).toInt ∣ (-61 : S64).toInt ∧
      (BitVec.ofNat 64 (2 ^ 63 - 1) : S64).toInt = 2 ^ 63 - 1 ∧ (BitVec.ofNat 64 (2 ^ 63) : S64).toInt = -2 ^ 63 := by
  decide
theorem witness_CounterWrapsModulo64Bits :
    -2 ^ 63 ≤ (1 : S64).toInt + (-1 : S64).toInt ∧ (1 : S64).toInt + (-1 : S64).toInt ≤ 2 ^ 63 - 1 := by decide
theorem witness_SameStepSameCode :
    stepIndex (nowValue (engine 30 30 [])) (engine 30 30 []).timestep =
      stepIndex (nowValue (engine 30 59 [])) (engine 30 59 []).timestep := by decide
theorem witness_OnlySixDigitsCanMatch :
    ([0x32, 0x38, 0x37, 0x30, 0x38] : Bytes).length ≠ 6 ∧
      ∃ b ∈ ([0x32, 0x38, 0x37, 0x30, 0x38, 0xB2] : Bytes), ¬ IsDigit b := by decide
theorem witness_VerifyDecidesTheWindow :
    stepIndex (nowValue (engine 30 29 [])) 30 = stepIndex 59 30 - 1 ∧
      stepIndex (nowValue (engine 30 45 [])) 30 = stepIndex 59 30 ∧
      stepIndex (nowValue (engine 30 89 [])) 30 = stepIndex 59 30 + 1 := by decide
theorem witness_ShortCircuitIsUnobservable : ([-1, 0, 1] : List Int).Perm [0, -1, 1] := by decide
theorem witness_CreateTotpRunsOneGentotpPerOffset :
    k20.length ≤ 65535 ∧ ({ busy with input := [] } : State).input = [] := by decide

end Sys2Proof.Tests
end

section
/-! PROOF. What a packet does to TIMESTEP and what it is answered, as functions of the packet, of TIMESTEP and of the clock
sample (10_state R33). -/

namespace Sys2Proof.Machine

/-- R161: TIMESTEP after a command. -/
def commandTimestep (c : Instr) (ts : S64) : S64 :=
  match c with
  | .setstep q => if q.toInt ≤ 0 then ts else q
  | _ => ts

/-- R185: the response to a command that starts at TIMESTEP `ts` and would sample the clock at `now`. -/
def commandResponse (c : Instr) (ts now : S64) : Bytes :=
  match c with
  | .b32enc data => responsePacket .ok (b32 data)
  | .ctrser counter => responsePacket .ok (ctrser counter)
  | .hotp key counterBytes => responsePacket .ok (hotp key counterBytes)
  | .setstep q => responsePacket (if q.toInt ≤ 0 then .configError else .ok) []
  | .stepidx => responsePacket .ok (be 8 (toU64 (stepIndex now ts)))
  | .gentotp key stepOffset => responsePacket .ok (totp key now ts stepOffset.toInt)
  | .verify key candidate =>
    responsePacket .ok [boolByte (verifyLoop key candidate (stepIndex now ts) windowOffsets)]

/-- R33: TIMESTEP after a packet. -/
def packetTimestep (p : Bytes) (ts : S64) : S64 :=
  match decode p with
  | .ok c => commandTimestep c ts
  | .error _ => ts

/-- R33, R69: the response to a packet. -/
def packetResponse (p : Bytes) (ts now : S64) : Bytes :=
  match decode p with
  | .ok c => commandResponse c ts now
  | .error r => responsePacket (rejectStatus r) []

theorem commandTimestep_of_ne_setstep {c : Instr} (h : ∀ q, c ≠ .setstep q) (ts : S64) :
    commandTimestep c ts = ts := by
  cases c with
  | setstep q => exact absurd rfl (h q)
  | _ => rfl

/-- Only a SETSTEP can write TIMESTEP, so what TIMESTEP becomes depends on nothing else of the state. -/
theorem exec_timestep {c : Instr} {s t : State} (h : exec c s = .next t) :
    t.timestep = commandTimestep c s.timestep := by
  obtain ⟨_, rfl, hc⟩ | ⟨_, rfl, hc⟩ | ⟨q, rfl, hq, rfl⟩ | ⟨q, rfl, hq, rfl⟩ := exec_cases h
  · exact (commandTimestep_of_ne_setstep hc _).symm
  · exact (commandTimestep_of_ne_setstep hc _).symm
  · simp [commandTimestep, hq]
  · simp [commandTimestep, Int.not_le.mpr hq]

theorem exec_responses {c : Instr} {s t : State} (h : exec c s = .next t) :
    t.responses = s.responses ++ [commandResponse c s.timestep (nowValue s)] := by
  cases c with
  | setstep q =>
    simp only [exec, execSetstep] at h
    split at h <;> cases h
    · simp [commandResponse, responsePacket, *]
    · simp [commandResponse, responsePacket, *]
  | _ => cases h; rfl

/-- R28: a packet that spells a command is taken off the port and the command runs. -/
theorem step_of_decode_ok {p : Bytes} {rest : List HostEvent} {s : State} {c : Instr}
    (hin : s.input = .packet p :: rest) (hd : decode p = .ok c) : step s = exec c { s with input := rest } := by
  simp only [step, fetch, hin, hd]

/-- R69: a packet that spells no command is taken off the port and refused. -/
theorem step_of_decode_error {p : Bytes} {rest : List HostEvent} {s : State} {r : Reject}
    (hin : s.input = .packet p :: rest) (hd : decode p = .error r) :
    step s = .next (refusePacket r { s with input := rest }) := by
  simp only [step, fetch, hin, hd]

/-- A step at a packet answers it once and leaves the TIMESTEP that the packet and the old TIMESTEP fix. -/
theorem step_packet_effect {p : Bytes} {rest : List HostEvent} {s t : State} (hin : s.input = .packet p :: rest)
    (h : step s = .next t) :
    t.timestep = packetTimestep p s.timestep ∧
      t.responses = s.responses ++ [packetResponse p s.timestep (nowValue s)] := by
  unfold packetTimestep packetResponse
  cases hd : decode p with
  | ok c =>
    rw [step_of_decode_ok hin hd] at h
    have htime := exec_timestep h
    have hresp := exec_responses h
    exact ⟨htime, hresp⟩
  | error r =>
    rw [step_of_decode_error hin hd] at h
    cases h
    exact ⟨rfl, rfl⟩

/-- Settles O24: one function gives the next TIMESTEP and another the response, of the packet, TIMESTEP and the sample. -/
theorem responseIsFunctionOfPacketTimestepSample : Obligations.ResponseIsFunctionOfPacketTimestepSample := by
  intro p s s' t t' rest rest' hin hin' hts hstep hstep'
  obtain ⟨htime, hresp⟩ := step_packet_effect hin hstep
  obtain ⟨htime', hresp'⟩ := step_packet_effect hin' hstep'
  refine ⟨by rw [htime, htime', hts], fun hnow => ⟨packetResponse p s.timestep (nowValue s), hresp, ?_⟩⟩
  rw [hresp', ← hts, nowValue_eq_headD, nowValue_eq_headD, hnow]

end Sys2Proof.Machine
end

section
/-! PROOF. Packets that spell no command (30_encoding R69, R74, R75): the length law in the numbers of R61, and how a step
answers such a packet. -/

namespace Sys2Proof.Machine

/-! ### The length law -/

/-- R61: inside the packet a length field is `p[i]*256 + p[i+1]`. -/
theorem len16_eq_numberAt {p : Bytes} {k : Nat} (h : k + 2 ≤ p.length) : len16 p k = numberAt p k := by
  have hfield : slice p k (k + 2) = [p.getD k 0, p.getD (k + 1) 0] := by
    have hcut : p.drop k = p[k] :: p[k + 1] :: p.drop (k + 2) := by
      rw [List.drop_eq_getElem_cons (by omega), List.drop_eq_getElem_cons (by omega)]
    rw [slice, Nat.add_sub_cancel_left, hcut, List.getD_eq_getElem, List.getD_eq_getElem]
    rfl
  simp [len16, hfield, fromBe, numberAt]

theorem lengthLaw_d (p : Bytes) : lengthLaw .d p = true ↔ 3 ≤ p.length ∧ p.length = 3 + numberAt p 1 := by
  simp only [lengthLaw, Bool.and_eq_true, decide_eq_true_eq]
  exact and_congr_right fun h => by rw [len16_eq_numberAt h]

theorem lengthLaw_km (p : Bytes) : lengthLaw .km p = true ↔ 3 ≤ p.length ∧ p.length = 11 + numberAt p 1 := by
  simp only [lengthLaw, Bool.and_eq_true, decide_eq_true_eq]
  exact and_congr_right fun h => by rw [len16_eq_numberAt h]

/-- The second length field is read only once the first one says that the packet reaches it. -/
theorem lengthLaw_kc (p : Bytes) :
    lengthLaw .kc p = true ↔ 3 ≤ p.length ∧ 5 + numberAt p 1 ≤ p.length ∧
      p.length = 5 + numberAt p 1 + numberAt p (3 + numberAt p 1) := by
  simp only [lengthLaw, Bool.and_eq_true, decide_eq_true_eq, and_assoc]
  refine and_congr_right fun h => ?_
  rw [len16_eq_numberAt h]
  exact and_congr_right fun h' => by rw [len16_eq_numberAt (by omega)]

/-- R65: the rows of `BreaksLengthLaw` negate the length law of each command's format. -/
theorem breaksLengthLaw_opcodeByte (o : Opcode) (p : Bytes) :
    BreaksLengthLaw (opcodeByte o) p ↔ ¬ lengthLaw (formatOf o) p = true := by
  cases o with
  | stepidx | ctrser | setstep => simp [BreaksLengthLaw, opcodeByte, formatOf, lengthLaw]
  | b32enc => simp [BreaksLengthLaw, opcodeByte, formatOf, lengthLaw_d, imp_iff_not_or]
  | hotp | gentotp => simp [BreaksLengthLaw, opcodeByte, formatOf, lengthLaw_km, imp_iff_not_or]
  | verify => simp [BreaksLengthLaw, opcodeByte, formatOf, lengthLaw_kc, imp_iff_not_or]

/-- R65 speaks of legal opcodes only. -/
theorem BreaksLengthLaw.exists_opcode {op : Byte} {p : Bytes} (h : BreaksLengthLaw op p) :
    ∃ o, op = opcodeByte o := by
  obtain ⟨rfl, -⟩ | ⟨rfl | rfl, -⟩ | ⟨rfl, -⟩ | ⟨rfl | rfl, -⟩ | ⟨rfl, -⟩ := h
  exacts [⟨.stepidx, rfl⟩, ⟨.ctrser, rfl⟩, ⟨.setstep, rfl⟩, ⟨.b32enc, rfl⟩, ⟨.hotp, rfl⟩, ⟨.gentotp, rfl⟩,
    ⟨.verify, rfl⟩]

/-! ### The decoder's rejections -/

theorem decode_of_illegalOpcode {op : Byte} (h : op = 0x00 ∨ 0x08 ≤ op.toNat) (body : Bytes) :
    decode (op :: body) = .error .illegalOpcode := by
  have hnone : opcodeOf op = none := opcodeOf_eq_none.mpr (h.imp_left (congrArg BitVec.toNat))
  rw [decode_cons, hnone]

theorem decode_of_breaksLengthLaw {op : Byte} {body : Bytes} (h : BreaksLengthLaw op (op :: body)) :
    decode (op :: body) = .error .malformed := by
  obtain ⟨o, rfl⟩ := h.exists_opcode
  have hlength := (breaksLengthLaw_opcodeByte o _).mp h
  simp only [decode_cons, opcodeOf_opcodeByte, if_neg hlength]

/-! ### The answers -/

/-- Settles O7: the opcode map has no row for such a byte, and the decoder asks it before any length. -/
theorem illegalOpcodeIsAnswered : Obligations.IllegalOpcodeIsAnswered := by
  intro s op body rest hop hin
  exact step_of_decode_error hin (decode_of_illegalOpcode hop body)

/-- Settles O8: every row of the broken length law has a legal opcode, so the decoder comes to the length and rejects it. -/
theorem malformedPacketIsAnswered : Obligations.MalformedPacketIsAnswered := by
  intro s p rest hp hin
  have hd : decode p = .error .malformed := by
    obtain rfl | ⟨op, body, rfl, hbreak⟩ := hp
    · rfl
    · exact decode_of_breaksLengthLaw hbreak
  exact step_of_decode_error hin hd

end Sys2Proof.Machine
end

section
/-! PROOF. The shape of Base32 text (40_base32 R95). The symbols come from the table lookup of R90 alone; the length comes from
counting bits: a drain of n valid bits emits n / 5 symbols and leaves n % 5 of them, so the loop only ever carries 0 to 4. -/

namespace Sys2Proof.Machine

/-- R90: every number of five bits has its symbol in the table. -/
theorem isBase32Symbol_b32Sym : ∀ v < 32, IsBase32Symbol (b32Sym v) := by decide

/-- R92: what the loop looks up is masked to five bits, whatever the accumulator holds. -/
theorem isBase32Symbol_b32Sym_mask (x : BitVec 12) : IsBase32Symbol (b32Sym (x &&& 0x1F).toNat) :=
  have hmask : (x &&& 0x1F).toNat ≤ 0x1F := BitVec.toNat_and x 0x1F ▸ Nat.and_le_right
  isBase32Symbol_b32Sym _ (Nat.lt_succ_of_le hmask)

/-- R95: `=` is not in the alphabet. -/
theorem not_isBase32Symbol_padding : ¬ IsBase32Symbol 0x3D := by decide

theorem b32Drain_of_lt {n : Nat} (h : n < 5) (fuel : Nat) (acc : BitVec 12) : b32Drain fuel acc n = ([], n) := by
  cases fuel with
  | zero => rfl
  | succ fuel => exact if_neg (Nat.not_le.2 h)

theorem b32Drain_succ_of_le {n : Nat} (h : 5 ≤ n) (fuel : Nat) (acc : BitVec 12) :
    b32Drain (fuel + 1) acc n =
      (b32Sym ((acc >>> (n - 5)) &&& 0x1F).toNat :: (b32Drain fuel acc (n - 5)).1,
        (b32Drain fuel acc (n - 5)).2) :=
  if_pos h

theorem isBase32Symbol_of_mem_b32Drain (fuel : Nat) (acc : BitVec 12) (n : Nat) :
    ∀ b ∈ (b32Drain fuel acc n).1, IsBase32Symbol b := by
  induction fuel generalizing n with
  | zero => exact List.forall_mem_nil _
  | succ fuel ih =>
    obtain h | h := Nat.lt_or_ge n 5
    · rw [b32Drain_of_lt h]
      exact List.forall_mem_nil _
    · rw [b32Drain_succ_of_le h]
      exact List.forall_mem_cons.2 ⟨isBase32Symbol_b32Sym_mask _, ih _⟩

/-- R92: with fuel enough, a drain emits every whole group of five bits and leaves the rest. -/
theorem b32Drain_counts {fuel n : Nat} (hfuel : n ≤ fuel) (acc : BitVec 12) :
    (b32Drain fuel acc n).1.length = n / 5 ∧ (b32Drain fuel acc n).2 = n % 5 := by
  induction fuel generalizing n with
  | zero => obtain rfl := Nat.le_zero.1 hfuel; exact ⟨rfl, rfl⟩
  | succ fuel ih =>
    obtain h | h := Nat.lt_or_ge n 5
    · rw [b32Drain_of_lt h]
      exact ⟨(Nat.div_eq_of_lt h).symm, (Nat.mod_eq_of_lt h).symm⟩
    · obtain ⟨hout, hleft⟩ := ih (n := n - 5) (by omega)
      rw [b32Drain_succ_of_le h, List.length_cons, hout, hleft]
      omega

/-- R92: the accumulator once a byte has entered at its low end. -/
def b32Push (acc : BitVec 12) (byte : Byte) : BitVec 12 := (acc <<< 8) ||| byte.setWidth 12

/-- R92: one turn of the loop, with the residual bits counted. -/
theorem b32Loop_cons (acc : BitVec 12) (nbits : Nat) (byte : Byte) (rest : Bytes) :
    b32Loop acc nbits (byte :: rest) =
      (b32Drain (nbits + 8) (b32Push acc byte) (nbits + 8)).1 ++
        b32Loop (b32Push acc byte &&& ((1 <<< ((nbits + 8) % 5)) - 1)) ((nbits + 8) % 5) rest := by
  obtain ⟨-, hleft⟩ := b32Drain_counts (Nat.le_refl (nbits + 8)) (b32Push acc byte)
  rw [← hleft]
  rfl

theorem isBase32Symbol_of_mem_b32Loop (acc : BitVec 12) (nbits : Nat) (data : Bytes) :
    ∀ b ∈ b32Loop acc nbits data, IsBase32Symbol b := by
  induction data generalizing acc nbits with
  | nil =>
    rw [b32Loop]
    split
    · exact List.forall_mem_singleton.2 (isBase32Symbol_b32Sym_mask _)
    · exact List.forall_mem_nil _
  | cons byte rest ih =>
    rw [b32Loop_cons]
    exact List.forall_mem_append.2 ⟨isBase32Symbol_of_mem_b32Drain _ _ _, ih _ _⟩

/-- R92, R95: from at most four valid bits, the loop emits a symbol for every five bits begun. -/
theorem b32Loop_length {nbits : Nat} (hbits : nbits < 5) (acc : BitVec 12) (data : Bytes) :
    (b32Loop acc nbits data).length = (nbits + 8 * data.length + 4) / 5 := by
  induction data generalizing acc nbits with
  | nil =>
    rw [b32Loop, apply_ite List.length, List.length_singleton, List.length_nil]
    split <;> omega
  | cons byte rest ih =>
    obtain ⟨hout, -⟩ := b32Drain_counts (Nat.le_refl (nbits + 8)) (b32Push acc byte)
    rw [b32Loop_cons, List.length_append, hout, ih (Nat.mod_lt _ (by decide)), List.length_cons]
    omega

theorem isBase32Symbol_of_mem_b32 (data : Bytes) : ∀ b ∈ b32 data, IsBase32Symbol b :=
  isBase32Symbol_of_mem_b32Loop 0 0 data

theorem b32_length (data : Bytes) : (b32 data).length = (8 * data.length + 4) / 5 := by
  rw [b32, b32Loop_length (by decide), Nat.zero_add]

/-- Settles O34: the symbols of a text are those of the alphabet, `=` is none of them, and the bits are counted by
`b32Loop_length`. -/
theorem base32OutputShape : Obligations.Base32OutputShape := fun data =>
  ⟨isBase32Symbol_of_mem_b32 data, b32_length data, fun hmem =>
    not_isBase32Symbol_padding (isBase32Symbol_of_mem_b32 data _ hmem)⟩

end Sys2Proof.Machine
end

section
/-! PROOF. The ends of SHA-1 (42_sha1_hmac R112, R117): how many zeros pad a message, and which bits of the chaining value each
byte of the digest holds. -/

namespace Sys2Proof.Machine

/-! ### Padding -/

/-- R112: the zeros fill the last block up to its last eight bytes. -/
theorem sha1PadZeros_fills (len : Nat) : (len + 1 + sha1PadZeros len) % 64 = 56 := by
  rw [sha1PadZeros]
  omega

/-- R112: two fillings differ by a multiple of 64, and the model's is below 64. -/
theorem sha1PadZeros_le_of_fills {len y : Nat} (h : (len + 1 + y) % 64 = 56) : sha1PadZeros len ≤ y := by
  rw [sha1PadZeros]
  omega

/-- R112: the bytes of the parts, one for 0x80 and eight for the bit length. -/
theorem sha1Pad_length (msg : Bytes) : (sha1Pad msg).length = msg.length + 1 + sha1PadZeros msg.length + 8 := by
  simp only [sha1Pad, List.length_append, List.length_singleton, rep_length, be_length, Nat.add_assoc]

/-- R112: the least filling opens a new block only where the eight length bytes and 0x80 no longer fit. -/
theorem sha1Pad_length_blocks (msg : Bytes) : (sha1Pad msg).length = 64 * ((msg.length + 8) / 64 + 1) := by
  rw [sha1Pad_length, sha1PadZeros]
  omega

/-- Settles O36: the witness is the model's own count of zeros, which fills the block and is below every filling. -/
theorem sha1PaddingLaw : Obligations.Sha1PaddingLaw := fun msg =>
  ⟨sha1PadZeros msg.length, rfl, sha1PadZeros_fills _,
    fun _ hy hfills => Nat.not_le.2 hy (sha1PadZeros_le_of_fills hfills), sha1Pad_length_blocks msg⟩

/-! ### Digest bytes -/

/-- R9: byte k of a word written big-endian is the word's byte `n - 1 - k`. -/
theorem be_toNat_getElem? {w n k : Nat} (hk : k < n) (x : BitVec w) :
    (be n x.toNat)[k]? = some (x.extractLsb' (8 * (n - 1 - k)) 8) := by
  rw [be, List.getElem?_map, List.getElem?_range hk]
  rfl

/-- R117: the digest begins with the bytes of `H0`. -/
theorem sha1Output_getElem?_H0 {k : Nat} (hk : k < 4) (h : Five) :
    (sha1Output h)[k]? = some (h.a.extractLsb' (8 * (3 - k)) 8) := by
  rw [← be_toNat_getElem? hk, sha1Output]
  simp only [List.append_assoc]
  exact List.getElem?_append_left (by rwa [be_length])

/-- R117: sixteen bytes on, the digest ends with the bytes of `H4`. -/
theorem sha1Output_getElem?_H4 {k : Nat} (hk : k < 4) (h : Five) :
    (sha1Output h)[16 + k]? = some (h.e.extractLsb' (8 * (3 - k)) 8) := by
  rw [← be_toNat_getElem? hk, sha1Output, List.getElem?_append_right (by simp)]
  simp

/-- R141: the mask keeps the low nibble. -/
theorem and_dtNibbleMask (b : Byte) : (b &&& Config.dtNibbleMask).toNat = b.toNat % 2 ^ 4 := by
  rw [BitVec.toNat_and]
  exact Nat.and_two_pow_sub_one_eq_mod b.toNat 4

/-- R117, R141: only byte 19 counts, and of its eight bits of `H4` the mask keeps the low four. -/
theorem dtOffset_sha1Output (h : Five) : dtOffset (sha1Output h) = (h.e.extractLsb' 0 4).toNat := by
  have hlast : (sha1Output h).getD 19 0 = h.e.extractLsb' 0 8 := by
    rw [List.getD_eq_getElem?_getD, sha1Output_getElem?_H4 (k := 3) (by decide)]
    rfl
  rw [dtOffset, hlast, and_dtNibbleMask, BitVec.extractLsb'_toNat, BitVec.extractLsb'_toNat]
  exact Nat.mod_mod_of_dvd _ (by decide)

/-- Settles O40: bytes 0 and 19 are the first of `H0` and the last of `H4`. -/
theorem digestByteOrder : Obligations.DigestByteOrder := fun h =>
  ⟨sha1Output_getElem?_H0 (k := 0) (by decide) h, sha1Output_getElem?_H4 (k := 3) (by decide) h,
    dtOffset_sha1Output h⟩

end Sys2Proof.Machine
end

section
/-! PROOF. Decimal text (43_hotp R144): the formatter for any number of digits. A text of one more digit is the text of the
tenth part with the last digit behind it, so induction on the number of digits gives the value a text spells. -/

namespace Sys2Proof.Machine

/-! ### One digit -/

theorem toNat_digitByte {d : Nat} (h : d < 10) : (BitVec.ofNat 8 (0x30 + d)).toNat = 0x30 + d :=
  Nat.mod_eq_of_lt (by omega)

theorem isDigit_digitByte {d : Nat} (h : d < 10) : IsDigit (BitVec.ofNat 8 (0x30 + d)) := by
  rw [IsDigit, toNat_digitByte h]
  omega

theorem decimalValue_append_digitByte {d : Nat} (h : d < 10) (b : Bytes) :
    decimalValue (b ++ [BitVec.ofNat 8 (0x30 + d)]) = 10 * decimalValue b + d := by
  rw [decimalValue, List.foldl_concat, toNat_digitByte h, Nat.add_sub_cancel_left]
  rfl

/-! ### Texts of n digits -/

/-- R144 for any number of digits: the last `n` decimal digits of `v`, most significant first. -/
def decimalText (n v : Nat) : Bytes :=
  (List.range n).map fun k => BitVec.ofNat 8 (0x30 + v / 10 ^ (n - 1 - k) % 10)

/-- R144: the formatter is the case of six digits. -/
theorem fmt6_eq_decimalText (v : Nat) : fmt6 v = decimalText 6 v := rfl

theorem decimalText_length (n v : Nat) : (decimalText n v).length = n := by simp [decimalText]

theorem decimalText_getElem? {n k : Nat} (h : k < n) (v : Nat) :
    (decimalText n v)[k]? = some (BitVec.ofNat 8 (0x30 + v / 10 ^ (n - 1 - k) % 10)) := by
  rw [decimalText, List.getElem?_map, List.getElem?_range h]
  rfl

theorem isDigit_of_mem_decimalText (n v : Nat) : ∀ b ∈ decimalText n v, IsDigit b :=
  List.forall_mem_map.2 fun _ _ => isDigit_digitByte (Nat.mod_lt _ (by decide))

theorem decimalText_succ (n v : Nat) :
    decimalText (n + 1) v = decimalText n (v / 10) ++ [BitVec.ofNat 8 (0x30 + v % 10)] := by
  have hfront : ∀ k ∈ List.range n, v / 10 ^ (n - k) = v / 10 / 10 ^ (n - 1 - k) := fun k hk => by
    have hexp : n - k = n - 1 - k + 1 := by have := List.mem_range.1 hk; omega
    rw [hexp, Nat.pow_succ', Nat.div_div_eq_div_mul]
  rw [decimalText, List.range_succ, List.map_append, List.map_singleton, Nat.add_sub_cancel, Nat.sub_self, Nat.pow_zero,
    Nat.div_one, decimalText]
  exact congrArg (· ++ _) (List.map_congr_left fun k hk => by rw [hfront k hk])

/-- A text of `n` digits spells the number modulo `10 ^ n`. -/
theorem decimalValue_decimalText (n v : Nat) : decimalValue (decimalText n v) = v % 10 ^ n := by
  induction n generalizing v with
  | zero => exact (Nat.mod_one v).symm
  | succ n ih =>
    rw [decimalText_succ, decimalValue_append_digitByte (Nat.mod_lt _ (by decide)), ih, Nat.pow_succ', Nat.mod_mul,
      Nat.add_comm]

/-! ### The formatter -/

theorem decimalValue_fmt6 {v : Nat} (h : v < 1000000) : decimalValue (fmt6 v) = v := by
  rw [fmt6_eq_decimalText, decimalValue_decimalText]
  exact Nat.mod_eq_of_lt h

theorem toNat_fmt6_getD {k : Nat} (h : k ≤ 5) (v : Nat) :
    ((fmt6 v).getD k 0).toNat = 0x30 + v / 10 ^ (5 - k) % 10 := by
  rw [fmt6_eq_decimalText, List.getD_eq_getElem?_getD, decimalText_getElem? (Nat.lt_succ_of_le h)]
  exact toNat_digitByte (Nat.mod_lt _ (by decide))

/-- Settles O44: a text spells its number, so equal texts are of equal numbers. -/
theorem formatterSpellsSixDigits : Obligations.FormatterSpellsSixDigits :=
  ⟨fun v hv => ⟨decimalText_length 6 v, isDigit_of_mem_decimalText 6 v, decimalValue_fmt6 hv,
      fun _ hk => toNat_fmt6_getD hk v⟩,
    fun v w hv hw heq => by rw [← decimalValue_fmt6 hv, heq, decimalValue_fmt6 hw]⟩

end Sys2Proof.Machine
end

section
/-! PROOF. SETSTEP (44_timestep R161): the packet it comes in, and the two meanings that the sign of its operand selects. -/

namespace Sys2Proof.Machine

/-- R61, R62: the field of a packet of format Q is the number written behind the opcode. -/
theorem s64Field_cons_be (op : Byte) (c : S64) : s64Field (op :: be 8 c.toNat) 1 = c := by
  have hslice : slice (op :: be 8 c.toNat) 1 9 = be 8 c.toNat := by
    simpa using slice_middle [op] (be 8 c.toNat) []
  rw [s64Field, hslice, toS64_fromBe_be_eight]

theorem decode_setstep (seconds : S64) : decode (0x04 :: be 8 seconds.toNat) = .ok (.setstep seconds) := by
  have hop : opcodeOf 0x04 = some .setstep := opcodeOf_opcodeByte .setstep
  have hlength : lengthLaw (formatOf .setstep) (0x04 :: be 8 seconds.toNat) = true := by
    simp [formatOf, lengthLaw]
  simp only [decode_cons, hop, hlength, if_true, operandsOf, s64Field_cons_be]

/-- R162: the signed comparison looks at bit 63, and at the whole pattern for zero. -/
theorem toInt_nonpos_iff (v : S64) : v.toInt ≤ 0 ↔ v = 0 ∨ v.msb = true := by
  have hzero : v.toInt = 0 ↔ v = 0 := by rw [← BitVec.toInt_inj]; rfl
  rw [Int.le_iff_eq_or_lt, hzero, BitVec.msb_eq_toInt, decide_eq_true_eq]

theorem exec_setstep_of_nonpos {seconds : S64} (h : seconds.toInt ≤ 0) (s : State) :
    exec (.setstep seconds) s = .next (raise .configError s) := if_pos h

theorem exec_setstep_of_pos {seconds : S64} (h : 0 < seconds.toInt) (s : State) :
    exec (.setstep seconds) s = .next (respond .ok [] (writeTimestep seconds s)) := if_neg (Int.not_le.2 h)

/-- Settles O17: the packet is read back, and the sign of the operand selects between raising and writing. -/
theorem setstepWritesOrRefuses : Obligations.SetstepWritesOrRefuses := fun seconds s =>
  ⟨decode_setstep seconds, toInt_nonpos_iff seconds, fun h => exec_setstep_of_nonpos h s,
    fun h => exec_setstep_of_pos h s⟩

end Sys2Proof.Machine
end

section
/-! PROOF. The counter (44_timestep R166): adding in `Int` and wrapping is the addition of the patterns. -/

namespace Sys2Proof.Machine

theorem counterAt_toInt (S o : S64) : counterAt S o.toInt = S + o := by
  rw [counterAt, wrap64, BitVec.ofInt_add, BitVec.ofInt_toInt, BitVec.ofInt_toInt]

/-- Settles O49: the number of a pattern is the balanced remainder modulo 2^64, congruent to the sum and equal to it in
range. -/
theorem counterWrapsModulo64Bits : Obligations.CounterWrapsModulo64Bits := by
  intro S o
  have hcounter : (counterAt S o.toInt).toInt = (S.toInt + o.toInt).bmod (2 ^ 64) := by
    rw [counterAt_toInt, BitVec.toInt_add]
  refine ⟨counterAt_toInt S o, ?_, fun hlow hhigh => ?_⟩
  · rw [hcounter]
    exact Int.emod_eq_zero_of_dvd Int.dvd_bmod_sub_self
  · rw [hcounter]
    exact Int.bmod_eq_of_le (by omega) (by omega)

end Sys2Proof.Machine
end

section
/-! PROOF. What VERIFY can match (44_timestep R171): every candidate it compares with is a code, and codes are six digits. -/

namespace Sys2Proof.Machine

theorem hotp_length (key counterBytes : Bytes) : (hotp key counterBytes).length = 6 := decimalText_length 6 _

theorem isDigit_of_mem_hotp (key counterBytes : Bytes) : ∀ b ∈ hotp key counterBytes, IsDigit b :=
  isDigit_of_mem_decimalText 6 _

/-- R172: leaving the loop at the first match answers whether there is a match. -/
theorem verifyLoop_eq_true_iff (key candidate : Bytes) (step : S64) (ds : List Int) :
    verifyLoop key candidate step ds = true ↔
      ∃ d ∈ ds, hotp key (ctrser (counterAt step d)) = candidate := by
  induction ds with
  | nil => simp [verifyLoop]
  | cons d ds ih => simp [verifyLoop, ih]

theorem verifyLoop_eq_false_of_not_sixDigits {candidate : Bytes}
    (h : candidate.length ≠ 6 ∨ ∃ b ∈ candidate, ¬ IsDigit b) (key : Bytes) (step : S64) (ds : List Int) :
    verifyLoop key candidate step ds = false := by
  refine Bool.eq_false_iff.2 fun hmatch => ?_
  obtain ⟨d, -, rfl⟩ := (verifyLoop_eq_true_iff key candidate step ds).1 hmatch
  obtain hlength | ⟨b, hmem, hdigit⟩ := h
  · exact hlength (hotp_length _ _)
  · exact hdigit (isDigit_of_mem_hotp _ _ b hmem)

/-- Settles O51: no code equals such a candidate, so the loop answers false. -/
theorem onlySixDigitsCanMatch : Obligations.OnlySixDigitsCanMatch := by
  intro key candidate s h
  have hloop := verifyLoop_eq_false_of_not_sixDigits h key (stepIndex (nowValue s) (readTimestep s)) windowOffsets
  simp only [exec, execVerify, hloop]
  rfl

end Sys2Proof.Machine
end

section
/-! PROOF. Decimal keys (44_timestep R177). The digits of a number are the decimal text of R144 whose width is the number's own:
its base-10 logarithm and one. What holds of decimal texts of every width then holds of keys. -/

namespace Sys2Proof.Machine

/-! ### Texts of a number's own width -/

/-- The text that has no leading zero, zero being one digit wide. -/
def shortestText (n : Nat) : Bytes := decimalText (Nat.log 10 n + 1) n

theorem shortestText_of_lt {n : Nat} (h : n < 10) : shortestText n = [BitVec.ofNat 8 (0x30 + n)] := by
  rw [shortestText, Nat.log_of_lt h, decimalText_succ, Nat.mod_eq_of_lt h]
  rfl

theorem shortestText_of_le {n : Nat} (h : 10 ≤ n) :
    shortestText n = shortestText (n / 10) ++ [BitVec.ofNat 8 (0x30 + n % 10)] := by
  rw [shortestText, Nat.log_of_one_lt_of_le (by decide) h, decimalText_succ, shortestText]

theorem decimalValue_shortestText (n : Nat) : decimalValue (shortestText n) = n := by
  rw [shortestText, decimalValue_decimalText]
  exact Nat.mod_eq_of_lt (Nat.lt_pow_succ_log_self (by decide) n)

/-- At the number's own width the leading digit is the whole quotient, with no remainder to take. -/
theorem leadingDigit_lt (n : Nat) : n / 10 ^ Nat.log 10 n < 10 :=
  Nat.div_lt_of_lt_mul (Nat.lt_pow_succ_log_self (b := 10) (by decide) n)

theorem leadingDigit_pos {n : Nat} (h : n ≠ 0) : 0 < n / 10 ^ Nat.log 10 n :=
  Nat.div_pos (Nat.pow_log_le_self 10 h) (by positivity)

theorem shortestText_head? (n : Nat) :
    (shortestText n).head? = some (BitVec.ofNat 8 (0x30 + n / 10 ^ Nat.log 10 n)) := by
  rw [List.head?_eq_getElem?, shortestText, decimalText_getElem? (Nat.succ_pos _), Nat.succ_sub_one, Nat.sub_zero,
    Nat.mod_eq_of_lt (leadingDigit_lt n)]

theorem shortestText_ne_nil (n : Nat) : shortestText n ≠ [] := by
  intro h
  simpa [h] using shortestText_head? n

theorem isDigit_of_mem_shortestText (n : Nat) : ∀ b ∈ shortestText n, IsDigit b :=
  isDigit_of_mem_decimalText _ n

theorem shortestText_of_head?_zero {n : Nat} (h : (shortestText n).head? = some 0x30) : shortestText n = [0x30] := by
  rw [shortestText_head?, Option.some_inj] at h
  have hlead : 0x30 + n / 10 ^ Nat.log 10 n = 0x30 := by
    rw [← toNat_digitByte (leadingDigit_lt n), h]
    rfl
  obtain rfl | hn := eq_or_ne n 0
  · exact shortestText_of_lt (by decide)
  · exact absurd (leadingDigit_pos hn) (by omega)

theorem shortestText_injective : Function.Injective shortestText :=
  Function.LeftInverse.injective decimalValue_shortestText

/-- R177: the sign is no digit. -/
theorem shortestText_ne_minus_cons (n : Nat) (b : Bytes) : shortestText n ≠ 0x2D :: b := fun h =>
  absurd (isDigit_of_mem_shortestText n 0x2D (h ▸ List.mem_cons_self)) (by decide)

/-! ### Keys -/

theorem decDigits_eq_shortestText {fuel n : Nat} (h : n < 10 ^ (fuel + 1)) : decDigits (fuel + 1) n = shortestText n := by
  induction fuel generalizing n with
  | zero => rw [decDigits, if_pos (by omega), shortestText_of_lt (by omega)]
  | succ fuel ih =>
    rw [decDigits]
    split
    · rw [shortestText_of_lt ‹_›]
    · rw [shortestText_of_le (by omega), ih (by omega)]

/-- R177: nineteen digits are enough for every `S64`. -/
theorem decKey_eq (o : S64) :
    decKey o = if o.toInt < 0 then 0x2D :: shortestText o.toInt.natAbs else shortestText o.toInt.natAbs := by
  have hbound : o.toInt.natAbs < 10 ^ 19 := by
    have hlow := o.le_toInt
    have hhigh := o.toInt_lt
    omega
  rw [decKey, decDigits_eq_shortestText hbound]

/-- R177: the first byte tells the sign, and the rest the magnitude. -/
theorem decKey_injective : Function.Injective decKey := by
  intro o o' h
  rw [decKey_eq, decKey_eq] at h
  apply BitVec.eq_of_toInt_eq
  split at h <;> split at h
  · have hmagnitude := shortestText_injective (List.tail_eq_of_cons_eq h)
    omega
  · exact absurd h.symm (shortestText_ne_minus_cons _ _)
  · exact absurd h (shortestText_ne_minus_cons _ _)
  · have hmagnitude := shortestText_injective h
    omega

/-- Settles O54: the digits are the magnitude's own text, and the key determines the offset. -/
theorem offsetKeysAreDecimal : Obligations.OffsetKeysAreDecimal :=
  ⟨fun o => ⟨shortestText o.toInt.natAbs, decKey_eq o, shortestText_ne_nil _, isDigit_of_mem_shortestText _,
    decimalValue_shortestText _, shortestText_of_head?_zero⟩, fun _ _ h => decKey_injective h⟩

end Sys2Proof.Machine
end

section
/-! PROOF. The mapping of CREATETOTP (44_timestep R178). Entries are processed from the front, so the induction adds one entry at
the end. -/

namespace Sys2Proof.Machine

theorem assignEntry_cons_same (key code c : Bytes) (rest : List (Bytes × Bytes)) :
    assignEntry key code ((key, c) :: rest) = (key, code) :: rest := if_pos rfl

theorem assignEntry_cons_of_ne {k key : Bytes} (h : k ≠ key) (code c : Bytes) (rest : List (Bytes × Bytes)) :
    assignEntry key code ((k, c) :: rest) = (k, c) :: assignEntry key code rest := if_neg h

/-- R178: the keys change only where the key is new, and then it is the last. -/
theorem assignEntry_keys (key code : Bytes) (m : List (Bytes × Bytes)) :
    (assignEntry key code m).map Prod.fst =
      if key ∈ m.map Prod.fst then m.map Prod.fst else m.map Prod.fst ++ [key] := by
  induction m with
  | nil => rfl
  | cons e rest ih =>
    obtain ⟨k, c⟩ := e
    obtain rfl | hne := eq_or_ne k key
    · simp [assignEntry_cons_same]
    · rw [assignEntry_cons_of_ne hne, List.map_cons, ih, apply_ite (List.cons k)]
      simp only [List.map_cons, List.mem_cons, hne.symm, false_or, List.cons_append]

/-- A lookup asks for the first pair's key, as a proposition. -/
theorem lookup_cons_eq_ite (k key code : Bytes) (m : List (Bytes × Bytes)) :
    ((key, code) :: m).lookup k = if k = key then some code else m.lookup k := by
  simp only [List.lookup_cons, ← beq_iff_eq (a := k)]
  cases k == key <;> rfl

/-- R178: whether the key was new or known, it now holds the new code, and no other key's code changes. -/
theorem lookup_assignEntry (k key code : Bytes) (m : List (Bytes × Bytes)) :
    (assignEntry key code m).lookup k = if k = key then some code else m.lookup k := by
  induction m with
  | nil => exact lookup_cons_eq_ite k key code []
  | cons e rest ih =>
    obtain ⟨k', c⟩ := e
    obtain rfl | hne := eq_or_ne k' key
    · rw [assignEntry_cons_same, lookup_cons_eq_ite, lookup_cons_eq_ite]
      split <;> rfl
    · rw [assignEntry_cons_of_ne hne, lookup_cons_eq_ite, lookup_cons_eq_ite, ih]
      obtain rfl | hk := eq_or_ne k k'
      · rw [if_pos rfl, if_pos rfl, if_neg hne]
      · rw [if_neg hk, if_neg hk]

theorem assembleMapping_concat (entries : List (S64 × Bytes)) (e : S64 × Bytes) :
    assembleMapping (entries ++ [e]) = assignEntry (decKey e.1) e.2 (assembleMapping entries) :=
  List.foldl_concat _ _ _ _

theorem eraseDups_concat {α : Type*} [BEq α] [LawfulBEq α] (l : List α) (a : α) [Decidable (a ∈ l)] :
    (l ++ [a]).eraseDups = if a ∈ l then l.eraseDups else l.eraseDups ++ [a] := by
  rw [List.eraseDups_append, List.cons_removeAll, List.nil_removeAll]
  by_cases h : a ∈ l
  · simp [h]
  · simp [h, List.eraseDups_cons]

theorem assembleMapping_keys (entries : List (S64 × Bytes)) :
    (assembleMapping entries).map Prod.fst = (entries.map fun e => decKey e.1).eraseDups := by
  induction entries using List.reverseRecOn with
  | nil => rfl
  | append_singleton entries e ih =>
    rw [assembleMapping_concat, assignEntry_keys, List.map_append, List.map_singleton, eraseDups_concat, ih]
    simp only [List.mem_eraseDups]

/-- The last entry's key is the offset's own key exactly when it is the offset, since keys are injective. -/
theorem lookup_assembleMapping (entries : List (S64 × Bytes)) (o : S64) :
    (assembleMapping entries).lookup (decKey o) =
      (entries.reverse.find? fun e => e.1 == o).map Prod.snd := by
  induction entries using List.reverseRecOn with
  | nil => rfl
  | append_singleton entries e ih =>
    rw [assembleMapping_concat, lookup_assignEntry, List.reverse_concat, ih]
    obtain heq | hne := eq_or_ne e.1 o
    · rw [List.find?_cons_of_pos (by simpa using heq), heq, if_pos rfl, Option.map_some]
    · rw [List.find?_cons_of_neg (by simpa using hne), if_neg fun h => hne (decKey_injective h).symm]

/-- Settles O55, entry by entry: keys by `assembleMapping_keys`, codes by `lookup_assembleMapping`. -/
theorem mappingKeepsFirstPlaceAndLastCode : Obligations.MappingKeepsFirstPlaceAndLastCode := fun entries =>
  ⟨assembleMapping_keys entries, lookup_assembleMapping entries⟩

end Sys2Proof.Machine
end

section
/-! PROOF. The exceptions (60_exceptions R191 to R202): a packet is answered OK by a command that may have effects, or it raises
an error status on the state that has used the packet up, and nothing else. -/

namespace Sys2Proof.Machine

/-! ### No state is stuck -/

theorem exec_answers (c : Instr) (s : State) : ∃ t, exec c s = .next t := by
  cases c with
  | setstep q =>
    obtain h | h := Int.lt_or_le 0 q.toInt
    · exact ⟨_, exec_setstep_of_pos h s⟩
    · exact ⟨_, exec_setstep_of_nonpos h s⟩
  | _ => exact ⟨_, rfl⟩

theorem step_answers (s : State) : ∃ t, step s = .next t := by
  cases hin : s.input with
  | nil => exact ⟨s, by simp only [step, fetch, hin]⟩
  | cons event rest =>
    cases event with
    | rst => exact ⟨resetEngine { s with input := rest }, by simp only [step, fetch, hin]⟩
    | packet p =>
      cases hd : decode p with
      | ok c => simpa only [step_of_decode_ok hin hd] using exec_answers c _
      | error r => exact ⟨_, step_of_decode_error hin hd⟩

/-! ### The three ways to answer a packet -/

/-- R191: OK, CONFIG_ERROR from a SETSTEP, or the status of a packet that spells no command. -/
theorem step_packet_cases {p : Bytes} {rest : List HostEvent} {s t : State} (hin : s.input = .packet p :: rest)
    (h : step s = .next t) :
    (∃ payload, (∀ q, decode p = .ok (.setstep q) → 0 < q.toInt) ∧ t.input = rest ∧
      t.responses = s.responses ++ [0x00 :: payload]) ∨
    (∃ q, decode p = .ok (.setstep q) ∧ q.toInt ≤ 0 ∧ t = raise .configError { s with input := rest }) ∨
    (∃ e, decode p = .error e ∧ t = refusePacket e { s with input := rest }) := by
  cases hd : decode p with
  | ok c =>
    rw [step_of_decode_ok hin hd] at h
    obtain ⟨payload, rfl, hc⟩ | ⟨payload, rfl, hc⟩ | ⟨q, rfl, hq, rfl⟩ | ⟨q, rfl, hq, rfl⟩ := exec_cases h
    · exact .inl ⟨payload, fun q hq => absurd (Except.ok.inj hq) (hc q), rfl, rfl⟩
    · exact .inl ⟨payload, fun q hq => absurd (Except.ok.inj hq) (hc q), rfl, rfl⟩
    · exact .inr (.inl ⟨q, rfl, hq, rfl⟩)
    · exact .inl ⟨[], fun _ hq' => by cases hq'; exact hq, rfl, rfl⟩
  | error e =>
    rw [step_of_decode_error hin hd] at h
    cases h
    exact .inr (.inr ⟨e, rfl, rfl⟩)

theorem response_unique {l : List Bytes} {r r' : Bytes} (h : l ++ [r] = l ++ [r']) : r = r' :=
  List.singleton_inj.1 (List.append_cancel_left h)

/-! ### Liveness -/

/-- Settles O26: every step answers, and each of the three answers is one legal response. -/
theorem everyPacketGetsExactlyOneResponse : Obligations.EveryPacketGetsExactlyOneResponse := by
  refine ⟨step_answers, fun s p rest hin => ?_⟩
  obtain ⟨t, ht⟩ := step_answers s
  obtain ⟨payload, -, hinput, hresp⟩ | ⟨q, -, -, rfl⟩ | ⟨e, -, rfl⟩ := step_packet_cases hin ht
  · exact ⟨t, 0x00 :: payload, ht, hinput, hresp, rfl⟩
  · exact ⟨_, [0x01], ht, rfl, rfl, rfl⟩
  · exact ⟨_, [statusCode (rejectStatus e)], ht, rfl, rfl, by cases e <;> rfl⟩

/-! ### Errors -/

/-- Settles O30: an answer that is not OK is raised on the state that has used the packet up. -/
theorem errorsLeaveNoTrace : Obligations.ErrorsLeaveNoTrace := by
  intro s t p r rest hin hstep hr hstatus
  obtain ⟨payload, -, -, hresp⟩ | ⟨q, -, -, rfl⟩ | ⟨e, -, rfl⟩ := step_packet_cases hin hstep
  · rw [hresp] at hr
    obtain rfl := response_unique hr
    exact absurd rfl hstatus
  · obtain rfl := response_unique hr
    exact ⟨rfl, rfl⟩
  · obtain rfl := response_unique hr
    exact ⟨rfl, rfl⟩

theorem legalTimestep_of_pos {v : S64} (h : 0 < v.toInt) : LegalTimestep v := by
  have hlt := v.toInt_lt
  constructor <;> omega

theorem legalTimestep_commandTimestep {ts : S64} (h : LegalTimestep ts) (c : Instr) :
    LegalTimestep (commandTimestep c ts) := by
  cases c with
  | setstep q =>
    rw [commandTimestep]
    split
    · exact h
    · exact legalTimestep_of_pos (by omega)
  | _ => exact h

theorem legalTimestep_packetTimestep {ts : S64} (h : LegalTimestep ts) (p : Bytes) :
    LegalTimestep (packetTimestep p ts) := by
  unfold packetTimestep
  split
  · exact legalTimestep_commandTimestep h _
  · exact h

/-- Settles O31: of the three answers only the raise of SETSTEP is CONFIG_ERROR, and the other two exclude its cause. -/
theorem configErrorExactlyFromNonPositiveSetstep : Obligations.ConfigErrorExactlyFromNonPositiveSetstep := by
  intro s t p r rest hin hstep hr
  refine ⟨?_, fun hlegal => ?_⟩
  · obtain ⟨payload, hpos, -, hresp⟩ | ⟨q, hd, hq, rfl⟩ | ⟨e, hd, rfl⟩ := step_packet_cases hin hstep
    · rw [hresp] at hr
      obtain rfl := response_unique hr
      exact iff_of_false (by simp) fun ⟨q, hd, hq⟩ => absurd (hpos q hd) (Int.not_lt.2 hq)
    · exact iff_of_true (response_unique hr).symm ⟨q, hd, hq⟩
    · obtain rfl := response_unique hr
      exact iff_of_false (by cases e <;> decide) fun ⟨q, hd', _⟩ => by simp [hd] at hd'
  · rw [(step_packet_effect hin hstep).1]
    exact legalTimestep_packetTimestep hlegal p

end Sys2Proof.Machine
end

section
/-! PROOF. The codec (30_encoding R61 to R70, R79). Both directions of R70 turn on one description of the decoder: a packet is
accepted as a command exactly when it has the command's opcode, meets the length law of its format, and assembles to it. -/

namespace Sys2Proof.Machine

/-! ### Cutting a packet -/

/-- R9: neighbouring slices join. -/
theorem slice_append_slice {i j k : Nat} (hij : i ≤ j) (hjk : j ≤ k) (p : Bytes) :
    slice p i j ++ slice p j k = slice p i k := by
  have hdrop : p.drop j = (p.drop i).drop (j - i) := by rw [List.drop_drop, Nat.add_sub_cancel' hij]
  have htake : k - i = (j - i) + (k - j) := by omega
  rw [slice, slice, slice, hdrop, htake, List.take_add]

/-- R9: a slice that reaches the end is the rest of the packet. -/
theorem slice_of_length_le {p : Bytes} {i k : Nat} (h : p.length ≤ k) : slice p i k = p.drop i :=
  List.take_of_length_le (by rw [List.length_drop]; omega)

theorem slice_length_of_le {p : Bytes} {i k : Nat} (h : k ≤ p.length) : (slice p i k).length = k - i := by
  rw [slice_length]
  omega

/-- A slice that lies behind `front` and covers `field` is `field`. -/
theorem slice_eq_of_append {p front field back : Bytes} {i j : Nat} (hp : p = front ++ (field ++ back))
    (hi : front.length = i) (hj : i + field.length = j) : slice p i j = field := by
  subst hp hi hj
  exact slice_middle front field back

/-! ### Fields written by the encoder are read back -/

theorem len16_of_append {p front back : Bytes} {n i : Nat} (hp : p = front ++ (be 2 n ++ back))
    (hi : front.length = i) (hn : n ≤ 65535) : len16 p i = n := by
  rw [len16, slice_eq_of_append hp hi (by rw [be_length]), fromBe_be_two hn]

theorem s64Field_of_append {p front back : Bytes} {c : S64} {i : Nat} (hp : p = front ++ (be 8 c.toNat ++ back))
    (hi : front.length = i) : s64Field p i = c := by
  rw [s64Field, slice_eq_of_append hp hi (by rw [be_length]), toS64_fromBe_be_eight]

theorem bytesField_of_append {p front field back : Bytes} {i : Nat} (hp : p = front ++ (field ++ back))
    (hi : front.length = i) : bytesField p i field.length = field :=
  slice_eq_of_append hp hi rfl

/-! ### Fields read by the decoder are what the encoder writes -/

/-- R61: a length field is 16 bits wide wherever it is read. -/
theorem len16_le (p : Bytes) (i : Nat) : len16 p i ≤ 65535 := by
  have hlt := fromBe_lt (slice p i (i + 2))
  have hpow : 2 ^ (8 * (slice p i (i + 2)).length) ≤ 2 ^ 16 :=
    Nat.pow_le_pow_right (by decide) (by rw [slice_length]; omega)
  rw [len16]
  omega

theorem be_fromBe_slice {p : Bytes} {i n : Nat} (h : i + n ≤ p.length) :
    be n (fromBe (slice p i (i + n))) = slice p i (i + n) := by
  have hback := be_fromBe (slice p i (i + n))
  rwa [slice_length_of_le h, Nat.add_sub_cancel_left] at hback

theorem be_len16 {p : Bytes} {i : Nat} (h : i + 2 ≤ p.length) : be 2 (len16 p i) = slice p i (i + 2) :=
  be_fromBe_slice h

theorem be_s64Field {p : Bytes} {i : Nat} (h : i + 8 ≤ p.length) :
    be 8 (s64Field p i).toNat = slice p i (i + 8) := by
  rw [s64Field, toS64, BitVec.toNat_ofNat, be_mod 8, be_fromBe_slice h]

theorem bytesField_length {p : Bytes} {i n : Nat} (h : i + n ≤ p.length) : (bytesField p i n).length = n := by
  rw [bytesField, slice_length_of_le h, Nat.add_sub_cancel_left]

/-- A length field and the operand it counts are one stretch of the packet. -/
theorem be_len16_append_bytesField {p : Bytes} {i : Nat} (h : i + 2 + len16 p i ≤ p.length) :
    be 2 (bytesField p (i + 2) (len16 p i)).length ++ bytesField p (i + 2) (len16 p i) =
      slice p i (i + 2 + len16 p i) := by
  rw [bytesField_length h, be_len16 (by omega), bytesField, slice_append_slice (by omega) (by omega)]

/-! ### The length law, said once -/

/-- R65: the length that a packet's format and its own length fields imply. -/
def lawfulLength (f : Format) (p : Bytes) : Nat :=
  match f with
  | .n => 1
  | .q => 9
  | .d => 3 + len16 p 1
  | .km => 11 + len16 p 1
  | .kc => 5 + len16 p 1 + len16 p (3 + len16 p 1)

/-- R65: the lower bounds of the law say only that the length fields lie inside the packet. -/
theorem lengthLaw_iff {f : Format} {p : Bytes} : lengthLaw f p = true ↔ p.length = lawfulLength f p := by
  cases f with
  | n | q => exact decide_eq_true_iff
  | d | km | kc =>
    simp only [lengthLaw, lawfulLength, Bool.and_eq_true, decide_eq_true_eq]
    omega

/-! ### The decoder, said once -/

@[simp] theorem opcodeOfInstr_operandsOf (o : Opcode) (p : Bytes) : opcodeOfInstr (operandsOf o p) = o := by
  cases o <;> rfl

/-- R69: a packet is accepted as a command exactly when opcode, length and operands are the command's. -/
theorem decode_eq_ok_iff {p : Bytes} {c : Instr} :
    decode p = .ok c ↔
      (∃ body, p = opcodeByte (opcodeOfInstr c) :: body) ∧
        lengthLaw (formatOf (opcodeOfInstr c)) p = true ∧ operandsOf (opcodeOfInstr c) p = c := by
  constructor
  · intro h
    cases p with
    | nil => cases h
    | cons op body =>
      rw [decode_cons] at h
      cases hop : opcodeOf op with
      | none => simp [hop] at h
      | some o =>
        simp only [hop] at h
        split at h
        · cases h
          obtain rfl := opcodeOf_eq_some hop
          rw [opcodeOfInstr_operandsOf]
          exact ⟨⟨body, rfl⟩, ‹_›, rfl⟩
        · cases h
  · rintro ⟨⟨body, rfl⟩, hlength, hops⟩
    simp only [decode_cons, opcodeOf_opcodeByte, hlength, hops, if_true]

/-! ### Decoding what the encoder writes -/

/-- R62: in the formats that carry a key (or data), the fields of a packet as the decoder finds them. -/
theorem keyed_packet_fields {p key tail : Bytes} {op : Byte} (hp : p = op :: (be 2 key.length ++ (key ++ tail)))
    (hkey : key.length ≤ 65535) :
    p.length = 3 + key.length + tail.length ∧ len16 p 1 = key.length ∧ bytesField p 3 key.length = key ∧
      p = (op :: (be 2 key.length ++ key)) ++ tail ∧ (op :: (be 2 key.length ++ key)).length = 3 + key.length := by
  refine ⟨?_, len16_of_append (front := [op]) hp rfl hkey,
    bytesField_of_append (front := op :: be 2 key.length) hp (by simp), ?_, ?_⟩
  · simp only [hp, List.length_cons, List.length_append, be_length]
    omega
  · rw [hp, List.cons_append, List.append_assoc]
  · simp only [List.length_cons, List.length_append, be_length]
    omega

theorem encode_b32enc (data : Bytes) : encode (.b32enc data) = 0x01 :: (be 2 data.length ++ (data ++ [])) := by
  rw [List.append_nil]
  rfl

theorem encode_hotp (key m : Bytes) : encode (.hotp key m) = 0x03 :: (be 2 key.length ++ (key ++ m)) :=
  congrArg _ (List.append_assoc _ _ _)

theorem encode_gentotp (key : Bytes) (o : S64) :
    encode (.gentotp key o) = 0x06 :: (be 2 key.length ++ (key ++ be 8 o.toNat)) :=
  congrArg _ (List.append_assoc _ _ _)

theorem encode_verify (key candidate : Bytes) :
    encode (.verify key candidate) =
      0x07 :: (be 2 key.length ++ (key ++ (be 2 candidate.length ++ candidate))) :=
  congrArg _ (List.append_assoc _ _ _)

/-- R65, R69, R70: the packet of a well-formed command meets its length law and assembles to the command. -/
theorem lengthLaw_and_operandsOf_encode {c : Instr} (hw : wellFormed c = true) :
    lengthLaw (formatOf (opcodeOfInstr c)) (encode c) = true ∧ operandsOf (opcodeOfInstr c) (encode c) = c := by
  rw [lengthLaw_iff]
  cases c with
  | stepidx => exact ⟨rfl, rfl⟩
  | ctrser v => exact ⟨rfl, congrArg Instr.ctrser (s64Field_cons_be _ v)⟩
  | setstep v => exact ⟨rfl, congrArg Instr.setstep (s64Field_cons_be _ v)⟩
  | b32enc data =>
    obtain ⟨hlength, hlen, hdata, -, -⟩ :=
      keyed_packet_fields (encode_b32enc data) ((wellFormed_b32enc _).1 hw)
    simp only [opcodeOfInstr, formatOf, lawfulLength, operandsOf, hlength, hlen, hdata, List.length_nil,
      Nat.add_zero, and_self]
  | hotp key m =>
    obtain ⟨hkey, hm⟩ := (wellFormed_hotp _ _).1 hw
    obtain ⟨hlength, hlen, hkeyField, hp, hfront⟩ := keyed_packet_fields (encode_hotp key m) hkey
    have hmField : bytesField (encode (.hotp key m)) (3 + key.length) 8 = m :=
      slice_eq_of_append (hp.trans (by rw [List.append_nil])) hfront (by rw [hm])
    simp only [opcodeOfInstr, formatOf, lawfulLength, operandsOf, hlength, hlen, hkeyField, hmField, hm, and_true]
    omega
  | gentotp key o =>
    obtain ⟨hlength, hlen, hkeyField, hp, hfront⟩ :=
      keyed_packet_fields (encode_gentotp key o) ((wellFormed_gentotp _ _).1 hw)
    have hoField : s64Field (encode (.gentotp key o)) (3 + key.length) = o :=
      s64Field_of_append (hp.trans (by rw [List.append_nil])) hfront
    simp only [opcodeOfInstr, formatOf, lawfulLength, operandsOf, hlength, hlen, hkeyField, hoField, be_length,
      and_true]
    omega
  | verify key candidate =>
    obtain ⟨hkey, hcand⟩ := (wellFormed_verify _ _).1 hw
    obtain ⟨hlength, hlen, hkeyField, hp, hfront⟩ := keyed_packet_fields (encode_verify key candidate) hkey
    have hlen2 : len16 (encode (.verify key candidate)) (3 + key.length) = candidate.length :=
      len16_of_append hp hfront hcand
    have hcandField : bytesField (encode (.verify key candidate)) (5 + key.length) candidate.length = candidate :=
      bytesField_of_append (front := 0x07 :: (be 2 key.length ++ key) ++ be 2 candidate.length) (back := [])
        (hp.trans (by rw [List.append_nil, List.append_assoc]))
        (by rw [List.length_append, hfront, be_length]; omega)
    simp only [opcodeOfInstr, formatOf, lawfulLength, operandsOf, hlength, hlen, hkeyField, hlen2, hcandField,
      List.length_append, be_length, and_true]
    omega

theorem decode_encode {c : Instr} (hw : wellFormed c = true) : decode (encode c) = .ok c :=
  decode_eq_ok_iff.2 ⟨⟨_, rfl⟩, lengthLaw_and_operandsOf_encode hw⟩

/-- Settles O10: the fields are read back where the encoder writes them, so the decoder's three checks pass. -/
theorem decodeOfEncodeIsIdentity : Obligations.DecodeOfEncodeIsIdentity := fun _ hw => decode_encode hw

/-! ### Encoding what the decoder reads -/

/-- R61, R65: what is read from a packet of lawful length fits the fields it was read from. -/
theorem wellFormed_operandsOf {o : Opcode} {p : Bytes} (h : p.length = lawfulLength (formatOf o) p) :
    wellFormed (operandsOf o p) = true := by
  have hlen := len16_le p 1
  cases o with
  | ctrser | setstep | stepidx => rfl
  | b32enc =>
    simp only [formatOf, lawfulLength] at h
    rwa [operandsOf, wellFormed_b32enc, bytesField_length (by omega)]
  | hotp =>
    simp only [formatOf, lawfulLength] at h
    rw [operandsOf, wellFormed_hotp, bytesField_length (by omega), bytesField_length (by omega)]
    exact ⟨hlen, rfl⟩
  | gentotp =>
    simp only [formatOf, lawfulLength] at h
    rwa [operandsOf, wellFormed_gentotp, bytesField_length (by omega)]
  | verify =>
    simp only [formatOf, lawfulLength] at h
    rw [operandsOf, wellFormed_verify, bytesField_length (by omega), bytesField_length (by omega)]
    exact ⟨hlen, len16_le p _⟩

/-- R62, R65: the fields written again are the whole packet behind its opcode. -/
theorem encodeFields_operandsOf {o : Opcode} {p : Bytes} (h : p.length = lawfulLength (formatOf o) p) :
    encodeFields (operandsOf o p) = slice p 1 (lawfulLength (formatOf o) p) := by
  cases o with
  | stepidx => rfl
  | ctrser | setstep => exact be_s64Field h.ge
  | b32enc => exact be_len16_append_bytesField h.ge
  | hotp =>
    simp only [formatOf, lawfulLength] at h ⊢
    rw [operandsOf, encodeFields, be_len16_append_bytesField (by omega), bytesField,
      slice_append_slice (by omega) (by omega), Nat.add_right_comm]
  | gentotp =>
    simp only [formatOf, lawfulLength] at h ⊢
    rw [operandsOf, encodeFields, toU64, be_len16_append_bytesField (by omega), be_s64Field (by omega),
      slice_append_slice (by omega) (by omega), Nat.add_right_comm]
  | verify =>
    simp only [formatOf, lawfulLength] at h ⊢
    have hnext : 5 + len16 p 1 = 3 + len16 p 1 + 2 := Nat.add_right_comm 3 2 _
    rw [operandsOf, encodeFields, be_len16_append_bytesField (by omega), hnext,
      be_len16_append_bytesField (by omega), slice_append_slice (by omega) (by omega)]

theorem encode_of_decode {p : Bytes} {c : Instr} (h : decode p = .ok c) : wellFormed c = true ∧ encode c = p := by
  obtain ⟨⟨body, hp⟩, hlaw, hops⟩ := decode_eq_ok_iff.1 h
  have hlength := lengthLaw_iff.1 hlaw
  have hfields := encodeFields_operandsOf hlength
  rw [← hlength, hops, slice_of_length_le le_rfl, hp, List.drop_one, List.tail_cons] at hfields
  exact ⟨hops ▸ wellFormed_operandsOf hlength, by rw [encode, hfields, hp]⟩

/-- Settles O11: the operands of an accepted packet fit their fields, and the fields written again are the packet. -/
theorem acceptedPacketIsItsEncoding : Obligations.AcceptedPacketIsItsEncoding := fun _ _ h => encode_of_decode h

/-! ### The assembler and the rejections -/

/-- Settles O12: by R70 both ways round, a packet decodes to a command exactly when the assembler gives it. -/
theorem assemblerAgreesWithDecoder : Obligations.AssemblerAgreesWithDecoder := by
  intro c p
  rw [assembleInstr, Option.ite_none_right_eq_some, Option.some_inj]
  exact ⟨fun ⟨hw, he⟩ => he ▸ decode_encode hw, encode_of_decode⟩

/-- R69: a packet is empty, or has an illegal opcode, or breaks the length law, or spells a command. -/
theorem packet_cases (p : Bytes) :
    p = [] ∨ (∃ op body, p = op :: body ∧ (op = 0x00 ∨ 0x08 ≤ op.toNat)) ∨
      (∃ op body, p = op :: body ∧ BreaksLengthLaw op p) ∨ ∃ c, decode p = .ok c := by
  cases p with
  | nil => exact .inl rfl
  | cons op body =>
    cases hop : opcodeOf op with
    | none =>
      have hzero : op.toNat = 0 → op = 0x00 := fun h => BitVec.eq_of_toNat_eq h
      exact .inr (.inl ⟨op, body, rfl, (opcodeOf_eq_none.1 hop).imp_left hzero⟩)
    | some o =>
      obtain rfl := opcodeOf_eq_some hop
      by_cases hlength : lengthLaw (formatOf o) (opcodeByte o :: body) = true
      · exact .inr (.inr (.inr ⟨operandsOf o (opcodeByte o :: body), by
          simp only [decode_cons, opcodeOf_opcodeByte, hlength, if_true]⟩))
      · exact .inr (.inr (.inl ⟨_, body, rfl, (breaksLengthLaw_opcodeByte o _).2 hlength⟩))

/-- Settles O9: each kind of packet has its own answer, so each answer tells the kind. -/
theorem decoderRejectsInOrder : Obligations.DecoderRejectsInOrder := by
  intro p
  have hillegal : (∃ op body, p = op :: body ∧ (op = 0x00 ∨ 0x08 ≤ op.toNat)) →
      decode p = .error .illegalOpcode := by
    rintro ⟨op, body, rfl, hop⟩
    exact decode_of_illegalOpcode hop body
  have hmalformed : (p = [] ∨ ∃ op body, p = op :: body ∧ BreaksLengthLaw op p) →
      decode p = .error .malformed := by
    rintro (rfl | ⟨op, body, rfl, hbreak⟩)
    · rfl
    · exact decode_of_breaksLengthLaw hbreak
  refine ⟨⟨fun h => ?_, hillegal⟩, ⟨fun h => ?_, hmalformed⟩⟩
  · obtain hempty | hop | hbreak | ⟨c, hc⟩ := packet_cases p
    · simp [hmalformed (.inl hempty)] at h
    · exact hop
    · simp [hmalformed (.inr hbreak)] at h
    · simp [hc] at h
  · obtain hempty | hop | hbreak | ⟨c, hc⟩ := packet_cases p
    · exact .inl hempty
    · simp [hillegal hop] at h
    · exact .inr hbreak
    · simp [hc] at h

end Sys2Proof.Machine
end

section
/-! PROOF. The serializer (41_counter_serializer R101): eight bits of an arithmetic shift that stays inside the pattern are
the pattern's own bits. -/

namespace Sys2Proof.Machine

/-- R101: no copy of the sign bit reaches the byte that is kept. -/
theorem serializedByte_eq_extractLsb' {k : Nat} (hk : k ≤ 7) (c : S64) :
    (c.sshiftRight (56 - 8 * k) &&& 0xFF).setWidth 8 = c.extractLsb' (56 - 8 * k) 8 := by
  have hmask : ∀ i < 8, (0xFF : S64).getLsbD i = true := by decide
  apply BitVec.eq_of_getLsbD_eq
  intro i hi
  rw [BitVec.getLsbD_setWidth, BitVec.getLsbD_and, BitVec.getLsbD_sshiftRight, BitVec.getLsbD_extractLsb',
    if_pos (by omega), hmask i hi]
  simp [hi, Nat.not_le.2 (Nat.lt_trans hi (by decide : 8 < 64))]

theorem ctrser_getElem? {k : Nat} (hk : k ≤ 7) (c : S64) :
    (ctrser c)[k]? = some ((c.sshiftRight (56 - 8 * k) &&& 0xFF).setWidth 8) := by
  rw [ctrser, List.getElem?_map, List.getElem?_range (show k < Config.ctrBytes from Nat.lt_succ_of_le hk)]
  rfl

/-- R101: the serializer writes the pattern big-endian. -/
theorem ctrser_eq_be (c : S64) : ctrser c = be 8 c.toNat := by
  apply List.map_congr_left
  intro k hk
  have hk7 : k ≤ 7 := Nat.le_of_lt_succ (List.mem_range.1 hk)
  have hshift : 8 * (8 - 1 - k) = 56 - 8 * k := by omega
  rw [serializedByte_eq_extractLsb' hk7, hshift]
  rfl

/-- Settles O35, byte by byte. -/
theorem serializerIsBigEndianPattern : Obligations.SerializerIsBigEndianPattern := fun c =>
  ⟨ctrser_eq_be c, fun _ hk =>
    ⟨ctrser_getElem? hk c, serializedByte_eq_extractLsb' hk c ▸ ctrser_getElem? hk c⟩⟩

end Sys2Proof.Machine
end

section
/-! PROOF. The step index (44_timestep R163 to R165). With a positive divisor the floor is `Int`'s quotient and never leaves
64 bits, so the wrap of R9 does nothing; every law below is one of that quotient. -/

namespace Sys2Proof.Machine

theorem wrap64_toInt {k : Int} (hlow : -2 ^ 63 ≤ k) (hhigh : k < 2 ^ 63) : (wrap64 k).toInt = k := by
  rw [wrap64, BitVec.toInt_ofInt]
  exact Int.bmod_eq_of_le (by omega) (by omega)

theorem stepIndex_eq_wrap64 (now : S64) {ts : S64} (h : 1 ≤ ts.toInt) :
    stepIndex now ts = wrap64 (Int.fdiv now.toInt ts.toInt) := if_pos h

/-- R163: the quotient is at most as large as the clock value, so it fits. -/
theorem stepIndex_toInt (now : S64) {ts : S64} (h : 1 ≤ ts.toInt) :
    (stepIndex now ts).toInt = now.toInt / ts.toInt := by
  have hlow := now.le_toInt
  have hhigh := now.toInt_lt
  have hge : -2 ^ 63 ≤ now.toInt / ts.toInt := (Int.le_ediv_iff_mul_le (by omega)).2 (by omega)
  have hlt : now.toInt / ts.toInt < 2 ^ 63 := Int.ediv_lt_of_lt_mul (by omega) (by omega)
  rw [stepIndex_eq_wrap64 now h, Int.fdiv_eq_ediv_of_nonneg _ (by omega), wrap64_toInt hge hlt]

theorem stepIndex_mul_le (now : S64) {ts : S64} (h : 1 ≤ ts.toInt) :
    (stepIndex now ts).toInt * ts.toInt ≤ now.toInt := by
  rw [stepIndex_toInt now h]
  exact Int.ediv_mul_le _ (by omega)

theorem le_stepIndex_iff {now ts : S64} (h : 1 ≤ ts.toInt) {q : Int} :
    q ≤ (stepIndex now ts).toInt ↔ q * ts.toInt ≤ now.toInt := by
  rw [stepIndex_toInt now h]
  exact Int.le_ediv_iff_mul_le (by omega)

/-- R163: the step index is the one number whose step holds the clock value. -/
theorem stepIndex_eq_of_mem_step {now ts q : S64} {k : Int} (hq : q.toInt = k) (h : 1 ≤ ts.toInt)
    (hle : k * ts.toInt ≤ now.toInt) (hlt : now.toInt < (k + 1) * ts.toInt) : stepIndex now ts = q := by
  have hge : k ≤ (stepIndex now ts).toInt := (le_stepIndex_iff h).2 hle
  have hnot : ¬ k + 1 ≤ (stepIndex now ts).toInt := fun hnext => Int.not_le.2 hlt ((le_stepIndex_iff h).1 hnext)
  exact BitVec.eq_of_toInt_eq (by omega)

theorem stepIndex_eq_zero {now ts : S64} (h : 1 ≤ ts.toInt) (hlow : 0 ≤ now.toInt) (hhigh : now.toInt < ts.toInt) :
    stepIndex now ts = 0 :=
  stepIndex_eq_of_mem_step (by decide : (0 : S64).toInt = 0) h (by omega) (by omega)

theorem stepIndex_eq_minusOne {now ts : S64} (h : 1 ≤ ts.toInt) (hlow : -ts.toInt ≤ now.toInt)
    (hhigh : now.toInt < 0) : stepIndex now ts = -1 :=
  stepIndex_eq_of_mem_step (by decide : (-1 : S64).toInt = -1) h (by omega) (by omega)

/-- Settles O46: the quotient is the greatest `q` by `le_stepIndex_iff`, and the bounds follow from it. -/
theorem stepIndexIsFloor : Obligations.StepIndexIsFloor := by
  intro now ts h
  have hmul := stepIndex_mul_le now h
  refine ⟨hmul, fun q => (le_stepIndex_iff h).2, fun hnow => ?_, fun hnow => ⟨?_, ?_⟩⟩
  · have hnonneg : 0 ≤ (stepIndex now ts).toInt := (le_stepIndex_iff h).2 (by omega)
    rw [abs_of_nonneg hnonneg, abs_of_nonneg hnow]
    nlinarith
  · exact BitVec.le_toInt _
  · by_contra hpos
    nlinarith

/-- Settles O47: the two quotients differ by the library's own correction term. -/
theorem stepIndexAgainstTruncation : Obligations.StepIndexAgainstTruncation := by
  intro now ts h
  rw [stepIndex_toInt now h, Int.tdiv_eq_ediv, Int.sign_eq_one_of_pos (by omega)]
  refine ⟨fun hagree => ?_, fun hnow hdvd => ?_⟩
  · rw [if_pos hagree, Int.add_zero]
  · rw [if_neg (not_or.2 ⟨Int.not_le.2 hnow, hdvd⟩), Int.add_sub_cancel]

/-- Settles O48: in each corner the named index is the one whose step holds the clock value. -/
theorem stepIndexCorners : Obligations.StepIndexCorners := by
  intro now ts h
  refine ⟨stepIndex_eq_zero h, fun hnow => stepIndex_eq_minusOne h (by omega) (by omega), fun hts => ?_,
    fun hts => ⟨fun hnow => ?_, fun hlow hhigh => stepIndex_eq_minusOne h (by omega) (by omega), fun hnow => ?_⟩⟩
  · exact stepIndex_eq_of_mem_step rfl h (by rw [hts]; omega) (by rw [hts]; omega)
  · exact stepIndex_eq_of_mem_step (by decide : (1 : S64).toInt = 1) h (by omega) (by omega)
  · exact stepIndex_eq_of_mem_step (by decide : (-2 : S64).toInt = -2) h (by omega) (by omega)

end Sys2Proof.Machine
end

section
/-! PROOF. The window (44_timestep R170 to R174): its three offsets are the counters one step below, at and one step above. -/

namespace Sys2Proof.Machine

theorem windowOffsets_eq : windowOffsets = [-1, 0, 1] := by decide

/-- Settles O53: the loop answers whether a member matches, and a permutation has the same members. -/
theorem shortCircuitIsUnobservable : Obligations.ShortCircuitIsUnobservable := by
  refine ⟨windowOffsets_eq, fun key candidate S ds ds' =>
    ⟨verifyLoop_eq_true_iff key candidate S ds, fun hperm => ?_⟩⟩
  rw [Bool.eq_iff_iff, verifyLoop_eq_true_iff, verifyLoop_eq_true_iff]
  simp only [hperm.mem_iff]

/-- R166: the counters of the window. -/
theorem counterAt_minusOne (S : S64) : counterAt S (-1) = S - 1 := by
  have hcounter := counterAt_toInt S (-1)
  rwa [show (-1 : S64).toInt = -1 by decide, ← BitVec.sub_eq_add_neg] at hcounter

theorem counterAt_zero (S : S64) : counterAt S 0 = S := by
  have hcounter := counterAt_toInt S 0
  rwa [show (0 : S64).toInt = 0 by decide, show S + 0 = S from BitVec.add_zero S] at hcounter

theorem counterAt_one (S : S64) : counterAt S 1 = S + 1 := by
  have hcounter := counterAt_toInt S 1
  rwa [show (1 : S64).toInt = 1 by decide] at hcounter

/-- R172: the loop over the window compares with three codes. -/
theorem verifyLoop_windowOffsets_iff (key candidate : Bytes) (S : S64) :
    verifyLoop key candidate S windowOffsets = true ↔
      candidate = hotp key (ctrser (S - 1)) ∨ candidate = hotp key (ctrser S) ∨
        candidate = hotp key (ctrser (S + 1)) := by
  simp only [verifyLoop_eq_true_iff, windowOffsets_eq, List.exists_mem_cons_iff, List.not_mem_nil, false_and,
    exists_false, or_false, counterAt_minusOne, counterAt_zero, counterAt_one, eq_comm (a := candidate)]

end Sys2Proof.Machine
end

section
/-! PROOF. One command (45_arithmetic_and_classes R185): its whole next state in one equation. What each command answers,
writes, samples and leaves alone is read off from it. -/

namespace Sys2Proof.Machine

/-- R185: a command writes TIMESTEP, answers once and takes at most one sample; the command port it leaves. -/
theorem exec_eq (c : Instr) (s : State) :
    exec c s = .next { s with
      timestep := commandTimestep c s.timestep
      responses := s.responses ++ [commandResponse c s.timestep (nowValue s)]
      nowPort := if samplesClock c then s.nowPort.tail else s.nowPort
      samples := s.samples + if samplesClock c then 1 else 0 } := by
  cases c with
  | setstep q =>
    simp only [commandTimestep, commandResponse]
    obtain h | h := Int.lt_or_le 0 q.toInt
    · simp only [exec_setstep_of_pos h, if_neg (Int.not_le.2 h)]
      rfl
    · simp only [exec_setstep_of_nonpos h, if_pos h]
      rfl
  | _ => rfl

/-! ### Responses -/

/-- R66, R185: the response is OK, or it is the CONFIG_ERROR of a SETSTEP. -/
theorem commandResponse_cases (c : Instr) (ts now : S64) :
    (∃ payload, commandResponse c ts now = 0x00 :: payload) ∨
      commandResponse c ts now = [0x01] ∧ ∃ q, c = .setstep q ∧ q.toInt ≤ 0 := by
  cases c with
  | setstep q =>
    obtain h | h := Int.lt_or_le 0 q.toInt
    · exact .inl ⟨[], by rw [commandResponse, if_neg (Int.not_le.2 h)]; rfl⟩
    · exact .inr ⟨by rw [commandResponse, if_pos h]; rfl, q, rfl, h⟩
  | _ => exact .inl ⟨_, rfl⟩

/-- R33, R185: without a sample the response is a function of the command alone. -/
theorem commandResponse_of_untimed {c : Instr} (h : samplesClock c = false) (ts ts' now now' : S64) :
    commandResponse c ts now = commandResponse c ts' now' := by
  cases c with
  | stepidx | gentotp | verify => cases h
  | _ => rfl

theorem commandTimestep_cases (c : Instr) (ts : S64) :
    commandTimestep c ts = ts ∨ ∃ q, c = .setstep q ∧ 0 < q.toInt ∧ commandTimestep c ts = q := by
  cases c with
  | setstep q =>
    obtain h | h := Int.lt_or_le 0 q.toInt
    · exact .inr ⟨q, rfl, h, if_neg (Int.not_le.2 h)⟩
    · exact .inl (if_pos h)
  | _ => exact .inl rfl

/-- Settles O22: the clauses are the fields of `exec_eq`. -/
theorem commandsWriteSampleAndRaiseAsTabled : Obligations.CommandsWriteSampleAndRaiseAsTabled := by
  intro c s t h
  rw [exec_eq] at h
  cases h
  refine ⟨commandTimestep_cases c s.timestep, rfl, rfl, rfl, _, rfl, ?_⟩
  obtain ⟨payload, hr⟩ | hraise := commandResponse_cases c s.timestep (nowValue s)
  · exact .inl (by rw [hr]; rfl)
  · exact .inr hraise

/-- Settles O21: a command that samples is no SETSTEP, so it answers OK and writes nothing. -/
theorem timedCommandsAnswerInEveryState : Obligations.TimedCommandsAnswerInEveryState := by
  intro c s hc
  cases c with
  | stepidx | gentotp | verify => exact ⟨_, rfl⟩
  | _ => cases hc

/-- Settles O23: any state's response serves for all. -/
theorem untimedCommandsIgnoreTheState : Obligations.UntimedCommandsIgnoreTheState := fun c hc =>
  ⟨commandResponse c 0 0, fun s => ⟨_, exec_eq c s, by rw [commandResponse_of_untimed hc 0 s.timestep 0 (nowValue s)]⟩⟩

/-! ### The commands that sample nothing -/

/-- Settles O14: the packet is the encoder's, and the meaning is the model's own arm. -/
theorem b32encAnswersBase32 : Obligations.B32encAnswersBase32 := fun data _ =>
  ⟨fun h => decode_encode ((wellFormed_b32enc data).2 h), rfl⟩

/-- Settles O15: the serializer gives back the bytes of the packet. -/
theorem ctrserAnswersItsOperandBytes : Obligations.CtrserAnswersItsOperandBytes := fun counter s =>
  ⟨decode_encode (wellFormed_ctrser counter), by rw [exec_eq, commandResponse, ctrser_eq_be]; rfl⟩

/-- Settles O16: the packet is the encoder's, and the meaning is the model's own arm. -/
theorem hotpAnswersCode : Obligations.HotpAnswersCode := fun key counterBytes _ =>
  ⟨fun hkey hcounter => decode_encode ((wellFormed_hotp key counterBytes).2 ⟨hkey, hcounter⟩), rfl⟩

/-! ### The commands that sample the clock -/

/-- Settles O18: with a positive TIMESTEP the step index is the wrapped floor. -/
theorem stepidxAnswersFloorQuotient : Obligations.StepidxAnswersFloorQuotient := by
  refine ⟨rfl, fun s hs => ?_⟩
  rw [exec_eq, commandResponse, stepIndex_eq_wrap64 _ hs, nowValue_eq_headD]
  rfl

/-- R166, R167: the counter is added in 64 bits and written big-endian. -/
theorem totp_eq (key : Bytes) (now ts o : S64) :
    totp key now ts o.toInt = hotp key (be 8 (stepIndex now ts + o).toNat) := by
  rw [totp, counterAt_toInt, ctrser_eq_be]

/-- Settles O19: the code at an offset by `totp_eq`, with the wrapped floor for the step index. -/
theorem gentotpAnswersCodeAtOffset : Obligations.GentotpAnswersCodeAtOffset := by
  intro key o s
  refine ⟨fun hkey => ?_, fun hs => ?_⟩
  · rw [List.append_assoc, ← encode_gentotp]
    exact decode_encode ((wellFormed_gentotp key o).2 hkey)
  · rw [exec_eq, commandResponse, totp_eq, stepIndex_eq_wrap64 _ hs, nowValue_eq_headD]
    rfl

/-- R172: the payload byte of VERIFY is its window membership. -/
theorem boolByte_verifyLoop (key candidate : Bytes) (S : S64) :
    boolByte (verifyLoop key candidate S windowOffsets) =
      if candidate = hotp key (be 8 (S - 1).toNat) ∨ candidate = hotp key (be 8 S.toNat) ∨
        candidate = hotp key (be 8 (S + 1).toNat) then 0x01 else 0x00 := by
  rw [boolByte]
  simp only [verifyLoop_windowOffsets_iff, ctrser_eq_be]

/-- Settles O20: the step index is the `S`, by its value. -/
theorem verifyAnswersWindowMembership : Obligations.VerifyAnswersWindowMembership := by
  intro key candidate s
  refine ⟨fun hkey hcand => ?_, fun hs => ⟨stepIndex (nowValue s) s.timestep, ?_, ?_⟩⟩
  · exact decode_encode ((wellFormed_verify key candidate).2 ⟨hkey, hcand⟩)
  · rw [stepIndex_toInt _ hs, nowValue_eq_headD, Int.fdiv_eq_ediv_of_nonneg _ (by omega)]
  · rw [exec_eq, commandResponse, boolByte_verifyLoop]
    rfl

/-- Settles O50: the response is the code of one step index, whichever state gives it. -/
theorem sameStepSameCode : Obligations.SameStepSameCode := by
  intro key o s s' hstep
  refine ⟨_, _, _, exec_eq _ s, exec_eq _ s', rfl, ?_⟩
  simp only [commandResponse, totp, hstep]

/-- R172: with a match in the window VERIFY answers true. -/
theorem exec_verify_of_match {key candidate : Bytes} {s : State}
    (h : verifyLoop key candidate (stepIndex (nowValue s) s.timestep) windowOffsets = true) :
    ∃ t : State, exec (.verify key candidate) s = .next t ∧ t.responses = s.responses ++ [[0x00, 0x01]] :=
  ⟨_, exec_eq _ s, by rw [commandResponse, h]; rfl⟩

/-- Settles O52: the three codes of the window, and for a code of step `n` the member of the window that gives `n` back. -/
theorem verifyDecidesTheWindow : Obligations.VerifyDecidesTheWindow := by
  refine ⟨fun key candidate s => ⟨_, exec_eq _ s, ?_⟩, fun key n s hstep => exec_verify_of_match ?_⟩
  · simp only [totp, counterAt_minusOne, counterAt_zero, counterAt_one, ← verifyLoop_windowOffsets_iff,
      commandResponse, responsePacket]
    cases verifyLoop key candidate (stepIndex (nowValue s) s.timestep) windowOffsets <;>
      simp [boolByte, statusCode]
  · rw [verifyLoop_windowOffsets_iff, totp, counterAt_zero]
    obtain hbelow | hat | habove := hstep
    · exact .inr (.inr (by rw [hbelow, BitVec.sub_add_cancel]))
    · exact .inr (.inl (by rw [hat]))
    · exact .inl (by rw [habove, BitVec.add_sub_cancel])

/-- R175: below one step of 30 on either side, a step of 60 gives the same index. -/
theorem stepIndex_thirty_eq_sixty {now : S64} (hlow : -30 ≤ now.toInt) (hhigh : now.toInt ≤ 29) :
    stepIndex now 30 = stepIndex now 60 := by
  have hthirty : (30 : S64).toInt = 30 := by decide
  have hsixty : (60 : S64).toInt = 60 := by decide
  obtain hneg | hnonneg := Int.lt_or_le now.toInt 0
  · rw [stepIndex_eq_minusOne (by omega) (by omega) hneg, stepIndex_eq_minusOne (by omega) (by omega) hneg]
  · rw [stepIndex_eq_zero (by omega) hnonneg (by omega), stepIndex_eq_zero (by omega) hnonneg (by omega)]

/-- Settles O32: SETSTEP leaves the clock port alone and TIMESTEP at the new value, where the next command finds them. -/
theorem setstepAffectsLaterCommands : Obligations.SetstepAffectsLaterCommands := by
  refine ⟨fun s t q hq h => ?_, fun now hlow hhigh => stepIndex_thirty_eq_sixty hlow hhigh⟩
  rw [exec_setstep_of_pos hq] at h
  cases h
  have hresp : ∀ c : Instr, ∃ u, exec c (respond .ok [] (writeTimestep q s)) = .next u ∧
      u.responses = s.responses ++ [[0x00], commandResponse c q (nowValue s)] := fun c =>
    ⟨_, exec_eq c _, List.append_assoc _ _ _⟩
  exact ⟨hresp .stepidx, fun key o => hresp (.gentotp key o), fun key candidate => hresp (.verify key candidate)⟩

end Sys2Proof.Machine
end

section
/-! PROOF. One step (10_state R21, R28, R30, R34, 60_exceptions R215): reset, idling, and the invariant. -/

namespace Sys2Proof.Machine

/-- Settles O1: the reset values written out. -/
theorem resetIsDefaultTimestepAndIdle : Obligations.ResetIsDefaultTimestepAndIdle := ⟨by decide, rfl, rfl⟩

theorem reset_inv : Inv State.reset := by decide

/-- Settles O2. -/
theorem resetMeetsInvariant : Obligations.ResetMeetsInvariant := reset_inv

theorem step_of_idle {s : State} (hin : s.input = []) : step s = .next s := by
  simp only [step, fetch, hin]

theorem step_of_rst {s : State} {rest : List HostEvent} (hin : s.input = .rst :: rest) :
    step s = .next (resetEngine { s with input := rest }) := by
  simp only [step, fetch, hin]

/-- Settles O3: a reset event writes 30 and nothing else; so does SETSTEP 30, whose operand is positive. -/
theorem rstRestoresDefaultTimestep : Obligations.RstRestoresDefaultTimestep := fun _ _ hin =>
  ⟨step_of_rst hin, exec_setstep_of_pos (by decide) _⟩

/-- Settles O4. -/
theorem idleEngineHoldsItsState : Obligations.IdleEngineHoldsItsState := fun _ hin => step_of_idle hin

theorem decode_of_decodeTableWord {nbits w : Nat} {c : Instr} (h : decodeTableWord nbits w = some c) :
    decode (tablePacket nbits w) = .ok c := by
  unfold decodeTableWord at h
  split at h
  · cases h
    assumption
  · cases h

/-- Settles O5: a table word's packet is a packet like any other, and taking it off leaves the state it was placed in. -/
theorem stepRunsDecodedCommand : Obligations.StepRunsDecodedCommand :=
  ⟨fun _ _ _ _ hin hd => step_of_decode_ok hin hd, fun _ _ _ _ h =>
    step_of_decode_ok rfl (decode_of_decodeTableWord h)⟩

/-- Settles O6: the decoder evaluated on each packet. -/
theorem specPacketsDecode : Obligations.SpecPacketsDecode := by
  refine ⟨?_, ?_, ?_, ?_, ?_, ?_, ?_⟩ <;> decide

/-- Settles O25: idling changes nothing, a reset writes a legal value, and a packet keeps TIMESTEP legal and adds one legal
response. -/
theorem everyStepKeepsInvariant : Obligations.EveryStepKeepsInvariant := by
  rintro s t ⟨hlegal, hresp⟩ h
  have packet_inv : ∀ {p rest}, s.input = .packet p :: rest → Inv t := by
    intro p rest hin
    obtain ⟨t', r, ht', -, hr, hrlegal⟩ := everyPacketGetsExactlyOneResponse.2 s p rest hin
    obtain rfl : t = t' := Host.Outcome.next.inj (h.symm.trans ht')
    refine ⟨(step_packet_effect hin h).1 ▸ legalTimestep_packetTimestep hlegal p, ?_⟩
    rw [hr]
    exact List.forall_mem_append.2 ⟨hresp, List.forall_mem_singleton.2 hrlegal⟩
  obtain ⟨-, rfl⟩ | ⟨rest, -, rfl⟩ | ⟨p, rest, c, hin, -, -⟩ | ⟨p, rest, r, hin, -, -⟩ := step_cases h
  · exact ⟨hlegal, hresp⟩
  · exact ⟨reset_inv.1, hresp⟩
  · exact packet_inv hin
  · exact packet_inv hin

end Sys2Proof.Machine
end

section
/-! PROOF. Runs (70_reset R231). The packets of a run act one after the other on everything but the command port; a run is
their fold, and each claim about runs is an induction over that fold. -/

namespace Sys2Proof.Machine

/-! ### One packet -/

/-- R29, R69: whether a packet spells a time-reading command. -/
def packetSamples (p : Bytes) : Bool :=
  match decode p with
  | .ok c => samplesClock c
  | .error _ => false

/-- R33: what a packet does to the state, the command port left aside. -/
def answerPacket (s : State) (p : Bytes) : State :=
  { s with
    timestep := packetTimestep p s.timestep
    responses := s.responses ++ [packetResponse p s.timestep (nowValue s)]
    nowPort := if packetSamples p then s.nowPort.tail else s.nowPort
    samples := s.samples + if packetSamples p then 1 else 0 }

theorem step_packet_eq {p : Bytes} {rest : List HostEvent} {s : State} (hin : s.input = .packet p :: rest) :
    step s = .next { answerPacket s p with input := rest } := by
  unfold answerPacket packetTimestep packetResponse packetSamples
  cases hd : decode p with
  | ok c => rw [step_of_decode_ok hin hd, exec_eq]; rfl
  | error r => rw [step_of_decode_error hin hd]; rfl

/-! ### All packets of a run -/

/-- R231: the state after the packets, the command port left aside. -/
def answerPackets (s : State) (packets : List Bytes) : State := packets.foldl answerPacket s

theorem answerPackets_cons (s : State) (p : Bytes) (packets : List Bytes) :
    answerPackets s (p :: packets) = answerPackets (answerPacket s p) packets := rfl

theorem answerPackets_append (s : State) (first more : List Bytes) :
    answerPackets s (first ++ more) = answerPackets (answerPackets s first) more := List.foldl_append

/-- The command port plays no part in an answer. -/
theorem answerPackets_with_input (s : State) (input : List HostEvent) (packets : List Bytes) :
    answerPackets { s with input := input } packets = { answerPackets s packets with input := input } := by
  induction packets generalizing s with
  | nil => rfl
  | cons p packets ih => exact ih (answerPacket s p)

theorem runSteps_packets {s : State} {packets : List Bytes} (hin : s.input = packets.map HostEvent.packet) :
    runSteps packets.length s = .next { answerPackets s packets with input := [] } := by
  induction packets generalizing s with
  | nil => exact congrArg _ (congrArg (fun i => { s with input := i }) hin)
  | cons p packets ih =>
    have hstep := step_packet_eq (s := s) (p := p) hin
    have hrest := ih (s := { answerPacket s p with input := packets.map HostEvent.packet }) rfl
    rw [List.length_cons, runSteps, hstep]
    simp only [hrest, answerPackets_with_input, answerPackets_cons]

theorem runSteps_boot (packets : List Bytes) (clock : List S64) :
    runSteps packets.length (boot packets clock) =
      .next { answerPackets { State.reset with nowPort := clock } packets with input := [] } := by
  rw [runSteps_packets rfl, ← answerPackets_with_input, ← answerPackets_with_input]
  rfl

/-- R28: each packet adds its one response behind those before it. -/
theorem answerPackets_responses (s : State) (packets : List Bytes) :
    ∃ rs : List Bytes, rs.length = packets.length ∧ (answerPackets s packets).responses = s.responses ++ rs := by
  induction packets generalizing s with
  | nil => exact ⟨[], rfl, (List.append_nil _).symm⟩
  | cons p packets ih =>
    obtain ⟨rs, hlength, hresp⟩ := ih (answerPacket s p)
    exact ⟨packetResponse p s.timestep (nowValue s) :: rs, congrArg Nat.succ hlength,
      hresp.trans (List.append_assoc _ _ _)⟩

/-- R50: the latest successful SETSTEP is found packet by packet. -/
theorem latestTimestep_cons (ts : S64) (p : Bytes) (packets : List Bytes) :
    latestTimestep ts (p :: packets) = latestTimestep (packetTimestep p ts) packets := by
  unfold packetTimestep
  rw [latestTimestep]
  split
  · next q hd =>
    simp only [hd, commandTimestep, ← Int.not_le, ite_not]
  · next hne =>
    cases hd : decode p with
    | error r => rfl
    | ok c =>
      have hkeeps := commandTimestep_of_ne_setstep (fun q hq => hne q (hq ▸ hd)) ts
      exact congrArg (latestTimestep · packets) hkeeps.symm

theorem answerPackets_timestep (s : State) (packets : List Bytes) :
    (answerPackets s packets).timestep = latestTimestep s.timestep packets := by
  induction packets generalizing s with
  | nil => rfl
  | cons p packets ih => rw [answerPackets_cons, ih, latestTimestep_cons, answerPacket]

theorem sampleCount_cons (p : Bytes) (packets : List Bytes) :
    sampleCount (p :: packets) = sampleCount packets + if packetSamples p then 1 else 0 :=
  List.countP_cons

/-- R29: a sample for each packet that spells a time-reading command. -/
theorem answerPackets_samples (s : State) (packets : List Bytes) :
    (answerPackets s packets).samples = s.samples + sampleCount packets ∧
      (answerPackets s packets).nowPort = s.nowPort.drop (sampleCount packets) := by
  induction packets generalizing s with
  | nil => exact ⟨rfl, rfl⟩
  | cons p packets ih =>
    obtain ⟨hsamples, hport⟩ := ih (answerPacket s p)
    rw [answerPackets_cons, hsamples, hport, sampleCount_cons]
    cases hp : packetSamples p with
    | false => simp [answerPacket, hp]
    | true =>
      simp only [answerPacket, hp, if_true]
      exact ⟨by omega, by rw [← List.drop_one, List.drop_drop, Nat.add_comm]⟩

/-! ### The claims about runs -/

/-- Settles O27: the run is the fold of its packets, whose responses and TIMESTEP are counted and followed above. -/
theorem runAnswersEveryPacketAndKeepsLatestTimestep : Obligations.RunAnswersEveryPacketAndKeepsLatestTimestep := by
  intro packets clock
  obtain ⟨rs, hlength, hresp⟩ := answerPackets_responses { State.reset with nowPort := clock } packets
  exact ⟨_, runSteps_boot packets clock, rfl, by rw [hresp]; exact hlength, answerPackets_timestep _ packets⟩

/-- Settles O28. -/
theorem runSamplesOncePerTimedCommand : Obligations.RunSamplesOncePerTimedCommand := by
  intro packets clock t h
  obtain rfl := Host.Outcome.next.inj ((runSteps_boot packets clock).symm.trans h)
  obtain ⟨hsamples, hport⟩ := answerPackets_samples { State.reset with nowPort := clock } packets
  exact ⟨hsamples.trans (Nat.zero_add _), hport⟩

/-- Settles O29: the longer run is the shorter one followed by more packets, which only add responses. -/
theorem responsesComeInCommandOrder : Obligations.ResponsesComeInCommandOrder := by
  intro first more clock t u ht hu
  obtain rfl := Host.Outcome.next.inj ((runSteps_boot first clock).symm.trans ht)
  obtain rfl := Host.Outcome.next.inj ((runSteps_boot (first ++ more) clock).symm.trans hu)
  obtain ⟨rs, hlength, hfirst⟩ := answerPackets_responses { State.reset with nowPort := clock } first
  obtain ⟨later, -, hmore⟩ := answerPackets_responses (answerPackets { State.reset with nowPort := clock } first) more
  have hshort : (answerPackets { State.reset with nowPort := clock } first).responses.length = first.length := by
    rw [hfirst]
    exact hlength
  simp only [answerPackets_append, hmore]
  exact List.take_left' hshort

end Sys2Proof.Machine
end

section
/-! PROOF. CREATETOTP (44_timestep R176 to R179): one issue leaves the engine idle with a sample and a response more, and the
entries yet to come depend on the clock and on TIMESTEP, not on the responses. -/

namespace Sys2Proof.Machine

/-- R176, R230: one GENTOTP issued to an idle engine. -/
theorem hostIssue_gentotp {key : Bytes} {s : State} (hkey : key.length ≤ 65535) (hin : s.input = []) (o : S64) :
    hostIssue (.gentotp key o) s =
      some (0x00 :: totp key (nowValue s) (readTimestep s) o.toInt,
        respond .ok (totp key (nowValue s) (readTimestep s) o.toInt) (takeSample s)) := by
  have hassemble : assembleInstr (.gentotp key o) = some (encode (.gentotp key o)) :=
    if_pos ((wellFormed_gentotp key o).2 hkey)
  have hstep : step (present (encode (.gentotp key o)) s) =
      .next (respond .ok (totp key (nowValue s) (readTimestep s) o.toInt) (takeSample s)) := by
    have hpresent : (present (encode (.gentotp key o)) s).input = [.packet (encode (.gentotp key o))] :=
      (present_input _ s).trans (by rw [hin]; rfl)
    rw [step_of_decode_ok hpresent (decode_encode ((wellFormed_gentotp key o).2 hkey)), ← hin]
    rfl
  simp only [hostIssue, hin, hassemble, hstep, respond_responses, List.getLast?_concat, Option.map_some]
  rfl

/-- R179: a response on the channel changes no later entry. -/
theorem sampledEntries_respond (key : Bytes) (offsets : List S64) (st : Status) (payload : Bytes) (s : State) :
    sampledEntries key offsets (respond st payload s) = sampledEntries key offsets s := by
  induction offsets generalizing s with
  | nil => rfl
  | cons o offsets ih => exact congrArg (List.cons _) (ih (takeSample s))

/-- R176: the entries are those of the samples, and the engine has answered each of them. -/
theorem issueOffsets_eq {key : Bytes} (hkey : key.length ≤ 65535) (offsets : List S64) {s : State}
    (hin : s.input = []) :
    issueOffsets key offsets s = some (sampledEntries key offsets s,
      { s with
        nowPort := s.nowPort.drop offsets.length
        samples := s.samples + offsets.length
        responses := s.responses ++ (sampledEntries key offsets s).map fun e => 0x00 :: e.2 }) := by
  induction offsets generalizing s with
  | nil => simp [issueOffsets, sampledEntries]
  | cons o offsets ih =>
    have hrest := ih (s := respond .ok (totp key (nowValue s) (readTimestep s) o.toInt) (takeSample s)) hin
    rw [sampledEntries_respond] at hrest
    simp only [issueOffsets, hostIssue_gentotp hkey hin, hrest, sampledEntries]
    simp [respond, takeSample, responsePacket, statusCode, Nat.add_assoc, Nat.add_comm 1]

/-- Settles O56: the mapping is assembled from the entries issued. -/
theorem createTotpRunsOneGentotpPerOffset : Obligations.CreateTotpRunsOneGentotpPerOffset := by
  intro key offsets s hkey hin
  rw [createTotp, issueOffsets_eq hkey offsets hin]
  rfl

end Sys2Proof.Machine
end

section
/-! PROOF. Base32 against its closed form (40_base32 R93). The bits yet to be emitted are the valid low bits of the accumulator
followed by the bits of the rest of the input. Taking a byte in, draining whole groups and masking the residue move that
stream along and change no bit of it. -/

namespace Sys2Proof.Machine

/-! ### Groups of five bits -/

/-- R93: the number of five bits of a stream, most significant first. -/
def fiveBits (f : Nat → Bool) : Nat :=
  16 * (f 0).toNat + 8 * (f 1).toNat + 4 * (f 2).toNat + 2 * (f 3).toNat + (f 4).toNat

theorem fiveBits_congr {f g : Nat → Bool} (h : ∀ i < 5, f i = g i) : fiveBits f = fiveBits g := by
  simp only [fiveBits, h 0 (by decide), h 1 (by decide), h 2 (by decide), h 3 (by decide), h 4 (by decide)]

theorem b32Group_eq_fiveBits (data : Bytes) (j : Nat) :
    b32Group data j = fiveBits fun i => b32StreamBit data (5 * j + i) := rfl

/-- R92: the five bits that the mask `0x1F` keeps. -/
theorem toNat_and_fiveBitMask (x : BitVec 12) : (x &&& 0x1F).toNat = fiveBits fun i => x.getLsbD (4 - i) := by
  have hmask : (x &&& 0x1F).toNat = x.toNat % 2 ^ 5 :=
    (BitVec.toNat_and x 0x1F).trans (Nat.and_two_pow_sub_one_eq_mod _ 5)
  simp only [hmask, fiveBits, ← BitVec.testBit_toNat, Nat.toNat_testBit]
  omega

/-! ### The stream that is yet to be emitted -/

/-- R91, R92: bit k of the low `nbits` bits of the accumulator followed by the input. -/
def carriedBit (acc : BitVec 12) (nbits : Nat) (data : Bytes) (k : Nat) : Bool :=
  if k < nbits then acc.getLsbD (nbits - 1 - k) else b32StreamBit data (k - nbits)

theorem carriedBit_zero (acc : BitVec 12) (data : Bytes) (k : Nat) :
    carriedBit acc 0 data k = b32StreamBit data k := if_neg (Nat.not_lt_zero k)

theorem b32StreamBit_nil (k : Nat) : b32StreamBit [] k = false := by simp [b32StreamBit]

/-- R91: the bits of the first byte come first. -/
theorem b32StreamBit_cons (byte : Byte) (rest : Bytes) (k : Nat) :
    b32StreamBit (byte :: rest) k = if k < 8 then byte.getLsbD (7 - k) else b32StreamBit rest (k - 8) := by
  split
  · next hk =>
    simp only [b32StreamBit, Nat.div_eq_of_lt hk, Nat.mod_eq_of_lt hk, List.getD_cons_zero, BitVec.getMsbD, hk,
      decide_true, Bool.true_and]
  · next hk =>
    have hdiv : k / 8 = (k - 8) / 8 + 1 := by omega
    have hmod : k % 8 = (k - 8) % 8 := by omega
    rw [b32StreamBit, b32StreamBit, hdiv, hmod, List.getD_cons_succ]

theorem b32Push_getLsbD {i : Nat} (hi : i < 12) (acc : BitVec 12) (byte : Byte) :
    (b32Push acc byte).getLsbD i = if i < 8 then byte.getLsbD i else acc.getLsbD (i - 8) := by
  rw [b32Push, BitVec.getLsbD_or, BitVec.getLsbD_shiftLeft, BitVec.getLsbD_setWidth]
  split
  · next hlow => simp [hi, hlow]
  · next hhigh => simp [hi, hhigh, BitVec.getLsbD_of_ge byte i (Nat.le_of_not_lt hhigh)]

/-- R92: a byte enters below the valid bits, and none of them is shifted out. -/
theorem carriedBit_cons {nbits : Nat} (hbits : nbits < 5) (acc : BitVec 12) (byte : Byte) (rest : Bytes) (k : Nat) :
    carriedBit acc nbits (byte :: rest) k = carriedBit (b32Push acc byte) (nbits + 8) rest k := by
  rw [carriedBit, carriedBit, b32StreamBit_cons]
  obtain hacc | hacc := Nat.lt_or_ge k nbits
  · have hindex : nbits + 8 - 1 - k - 8 = nbits - 1 - k := by omega
    rw [if_pos hacc, if_pos (by omega), b32Push_getLsbD (by omega), if_neg (by omega), hindex]
  · obtain hbyte | hrest := Nat.lt_or_ge k (nbits + 8)
    · have hindex : nbits + 8 - 1 - k = 7 - (k - nbits) := by omega
      rw [if_neg (by omega), if_pos (by omega), if_pos hbyte, b32Push_getLsbD (by omega), if_pos (by omega), hindex]
    · rw [if_neg (by omega), if_neg (by omega), if_neg (by omega), Nat.sub_sub]

/-- R92: emitting the top `n - r` valid bits leaves the stream behind them. -/
theorem carriedBit_drained {n r : Nat} (hr : r ≤ n) (acc : BitVec 12) (data : Bytes) (k : Nat) :
    carriedBit acc n data (n - r + k) = carriedBit acc r data k := by
  rw [carriedBit, carriedBit]
  split
  · have hindex : n - 1 - (n - r + k) = r - 1 - k := by omega
    rw [if_pos (by omega), hindex]
  · have hindex : n - r + k - n = k - r := by omega
    rw [if_neg (by omega), hindex]

theorem residueMask_getLsbD : ∀ r < 5, ∀ i < r, ((1 <<< r) - 1 : BitVec 12).getLsbD i = true := by decide

/-- R92: the mask keeps the valid bits. -/
theorem carriedBit_masked {r : Nat} (hr : r < 5) (acc : BitVec 12) (data : Bytes) (k : Nat) :
    carriedBit (acc &&& ((1 <<< r) - 1)) r data k = carriedBit acc r data k := by
  rw [carriedBit, carriedBit]
  split
  · rw [BitVec.getLsbD_and, residueMask_getLsbD r hr _ (by omega), Bool.and_true]
  · rfl

/-! ### Drain and loop -/

/-- R92: with fuel enough, a drain emits the groups of the valid bits, most significant first. -/
theorem b32Drain_symbols {fuel n : Nat} (hfuel : n ≤ fuel) (acc : BitVec 12) (data : Bytes) :
    (b32Drain fuel acc n).1 =
      (List.range (n / 5)).map fun j => b32Sym (fiveBits fun i => carriedBit acc n data (5 * j + i)) := by
  induction fuel generalizing n with
  | zero => obtain rfl := Nat.le_zero.1 hfuel; rfl
  | succ fuel ih =>
    obtain h | h := Nat.lt_or_ge n 5
    · rw [b32Drain_of_lt h, Nat.div_eq_of_lt h]
      rfl
    · have hcount : n / 5 = (n - 5) / 5 + 1 := by omega
      have htop : ∀ i < 5, (acc >>> (n - 5)).getLsbD (4 - i) = carriedBit acc n data (5 * 0 + i) := fun i hi => by
        have hindex : n - 5 + (4 - i) = n - 1 - (5 * 0 + i) := by omega
        rw [carriedBit, if_pos (by omega), BitVec.getLsbD_ushiftRight, hindex]
      have hskip : ∀ j i, 5 * (j + 1) + i = n - (n - 5) + (5 * j + i) := by omega
      rw [b32Drain_succ_of_le h, ih (by omega), hcount, List.range_succ_eq_map, List.map_cons, List.map_map,
        toNat_and_fiveBitMask, fiveBits_congr htop]
      simp only [Function.comp_def, Nat.succ_eq_add_one, hskip, carriedBit_drained (Nat.sub_le n 5)]

/-- R92: the last symbol has the bits that are left on top and zeros, the bits after the end of the stream, below. -/
theorem toNat_lastSymbol {nbits : Nat} (hbits : nbits < 5) (acc : BitVec 12) :
    ((acc <<< (5 - nbits)) &&& 0x1F).toNat = fiveBits fun i => carriedBit acc nbits [] i := by
  rw [toNat_and_fiveBitMask]
  refine fiveBits_congr fun i hi => ?_
  rw [carriedBit, BitVec.getLsbD_shiftLeft, b32StreamBit_nil]
  split
  · have hindex : 4 - i - (5 - nbits) = nbits - 1 - i := by omega
    have hlow : ¬ 4 - i < 5 - nbits := by omega
    simp [hindex, hlow, show 4 - i < 12 by omega]
  · have hlow : 4 - i < 5 - nbits := by omega
    simp [hlow]

theorem b32Loop_symbols {nbits : Nat} (hbits : nbits < 5) (acc : BitVec 12) (data : Bytes) :
    b32Loop acc nbits data =
      (List.range ((nbits + 8 * data.length + 4) / 5)).map fun j =>
        b32Sym (fiveBits fun i => carriedBit acc nbits data (5 * j + i)) := by
  induction data generalizing acc nbits with
  | nil =>
    rw [b32Loop]
    split
    · have hcount : (nbits + 8 * ([] : Bytes).length + 4) / 5 = 1 := by rw [List.length_nil]; omega
      rw [hcount, toNat_lastSymbol hbits]
      simp
    · have hcount : (nbits + 8 * ([] : Bytes).length + 4) / 5 = 0 := by rw [List.length_nil]; omega
      rw [hcount]
      rfl
  | cons byte rest ih =>
    have hcount : (nbits + 8 * (byte :: rest).length + 4) / 5 =
        (nbits + 8) / 5 + ((nbits + 8) % 5 + 8 * rest.length + 4) / 5 := by
      rw [List.length_cons]
      omega
    have hskip : ∀ j i, 5 * ((nbits + 8) / 5 + j) + i = nbits + 8 - (nbits + 8) % 5 + (5 * j + i) := by omega
    rw [b32Loop_cons, b32Drain_symbols le_rfl _ rest, ih (Nat.mod_lt _ (by decide)), hcount, List.range_add,
      List.map_append, List.map_map]
    simp only [carriedBit_cons hbits, Function.comp_def, hskip, carriedBit_drained (Nat.mod_le _ 5),
      carriedBit_masked (Nat.mod_lt (nbits + 8) (show 0 < 5 by decide))]

theorem b32_eq_b32Closed (data : Bytes) : b32 data = b32Closed data := by
  rw [b32, b32Loop_symbols (by decide), Nat.zero_add, b32Closed]
  simp only [carriedBit_zero, b32Group_eq_fiveBits]

/-- R93: the zero bits appended, and the symbols of the last group, by the length modulo five. -/
theorem base32_counts (n : Nat) :
    5 * ((8 * n + 4) / 5) - 8 * n = (5 - (8 * n) % 5) % 5 ∧
      (5 - (8 * n) % 5) % 5 = [0, 2, 4, 1, 3].getD (n % 5) 0 ∧
      (8 * n + 4) / 5 = 8 * (n / 5) + [0, 2, 4, 5, 7].getD (n % 5) 0 := by
  have hmod : n % 5 < 5 := Nat.mod_lt _ (by decide)
  refine ⟨by omega, ?_⟩
  interval_cases h : n % 5 <;> simp <;> omega

/-- Settles O33: the closed form by the stream, the counts by arithmetic on the length. -/
theorem base32IsItsClosedForm : Obligations.Base32IsItsClosedForm := by
  intro data
  rw [b32_length]
  exact ⟨b32_eq_b32Closed data, rfl, base32_counts data.length⟩

end Sys2Proof.Machine
end

section
/-! PROOF. SHA-1 inside (42_sha1_hmac R113 to R116). The model's schedule is built newest first and its rounds and blocks are
recursions; each is shown to be the indexed form of the rule. -/

namespace Sys2Proof.Machine

/-! ### The schedule -/

theorem rotl_one (x : U32) : rotl 1 x = x.rotateLeft 1 := by
  rw [BitVec.rotateLeft_def]
  rfl

/-- R115: one turn of the extension. -/
def nextWord (w : List U32) : U32 :=
  rotl 1 (w.getD 2 0 ^^^ w.getD 7 0 ^^^ w.getD 13 0 ^^^ w.getD 15 0)

theorem sha1Extend_succ (n : Nat) (w : List U32) : sha1Extend (n + 1) w = sha1Extend n (nextWord w :: w) := rfl

/-- R115: the words so far stay where they are. -/
theorem sha1Extend_eq_append (n : Nat) (w : List U32) :
    ∃ later : List U32, later.length = n ∧ sha1Extend n w = later ++ w := by
  induction n generalizing w with
  | zero => exact ⟨[], rfl, rfl⟩
  | succ n ih =>
    obtain ⟨later, hlength, happend⟩ := ih (nextWord w :: w)
    exact ⟨later ++ [nextWord w], by simp [hlength], by rw [sha1Extend_succ, happend, List.append_assoc]; rfl⟩

theorem sha1Extend_length (n : Nat) (w : List U32) : (sha1Extend n w).length = n + w.length := by
  obtain ⟨later, hlength, happend⟩ := sha1Extend_eq_append n w
  rw [happend, List.length_append, hlength]

/-- Oldest first, the schedule begins with the words it was extended from. -/
theorem sha1Extend_reverse_getElem? {t : Nat} (n : Nat) {w : List U32} (ht : t < w.length) :
    (sha1Extend n w).reverse[t]? = w.reverse[t]? := by
  obtain ⟨later, -, happend⟩ := sha1Extend_eq_append n w
  rw [happend, List.reverse_append, List.getElem?_append_left (by rwa [List.length_reverse])]

/-- Oldest first, the word `i + 1` places before the next one is the newest-first element `i`. -/
theorem sha1Extend_reverse_getD {i : Nat} (n : Nat) {w : List U32} (hi : i < w.length) :
    (sha1Extend n w).reverse.getD (w.length - (i + 1)) 0 = w.getD i 0 := by
  have hindex : w.length - 1 - (w.length - (i + 1)) = i := by omega
  rw [List.getD_eq_getElem?_getD, sha1Extend_reverse_getElem? n (by omega), List.getElem?_reverse (by omega), hindex,
    List.getD_eq_getElem?_getD]

/-- R115: the recurrence, at the position that the next word takes. -/
def scheduleRecurrence (W : List U32) (t : Nat) : U32 :=
  (W.getD (t - 3) 0 ^^^ W.getD (t - 8) 0 ^^^ W.getD (t - 14) 0 ^^^ W.getD (t - 16) 0).rotateLeft 1

theorem sha1Extend_recurrence {n : Nat} {w : List U32} (hw : 16 ≤ w.length) {t : Nat} (hlow : w.length ≤ t)
    (hhigh : t < n + w.length) :
    (sha1Extend n w).reverse[t]? = some (scheduleRecurrence (sha1Extend n w).reverse t) := by
  induction n generalizing w with
  | zero => omega
  | succ n ih =>
    have hlength : (nextWord w :: w).length = w.length + 1 := rfl
    obtain hlater | rfl := Nat.lt_or_eq_of_le hlow
    · exact ih (w := nextWord w :: w) (by omega) (by omega) (by omega)
    · have hword : (sha1Extend (n + 1) w).reverse[w.length]? = some (nextWord w) := by
        rw [sha1Extend_succ, sha1Extend_reverse_getElem? n (by omega), List.reverse_cons,
          List.getElem?_append_right (by simp)]
        simp
      rw [hword, scheduleRecurrence, sha1Extend_reverse_getD (i := 2) _ (by omega),
        sha1Extend_reverse_getD (i := 7) _ (by omega), sha1Extend_reverse_getD (i := 13) _ (by omega),
        sha1Extend_reverse_getD (i := 15) _ (by omega), ← rotl_one]
      rfl

theorem sha1Words_length (blk : Bytes) : (sha1Words blk).length = 16 := by
  rw [sha1Words, List.length_map, List.length_range]

theorem sha1Schedule_length (blk : Bytes) : (sha1Schedule blk).length = 80 := by
  rw [sha1Schedule, List.length_reverse, sha1Extend_length, List.length_reverse, sha1Words_length]

/-- Settles O37: the first sixteen words are kept, and each later one is made by the recurrence from its place. -/
theorem sha1ScheduleRecurrence : Obligations.Sha1ScheduleRecurrence := by
  intro blk
  have hlength : (sha1Words blk).reverse.length = 16 := by rw [List.length_reverse, sha1Words_length]
  refine ⟨sha1Schedule_length blk, fun t ht => ?_, fun t hlow hhigh => ?_⟩
  · rw [sha1Schedule, sha1Extend_reverse_getElem? _ (by omega), List.reverse_reverse, sha1Words, List.getElem?_map,
      List.getElem?_range ht]
    rfl
  · exact sha1Extend_recurrence (by omega) (by omega) (by omega)

/-! ### Rounds and blocks -/

/-- R115: the rounds left, indexed from the first of them. -/
theorem sha1Rounds_eq_foldl (t : Nat) (ws : List U32) (r : Five) :
    sha1Rounds t ws r = (List.range ws.length).foldl (fun r i => sha1Round (t + i) (ws.getD i 0) r) r := by
  induction ws generalizing t r with
  | nil => rfl
  | cons w ws ih =>
    rw [sha1Rounds, ih, List.length_cons, List.range_succ_eq_map, List.foldl_cons, List.foldl_map]
    simp only [List.getD_cons_zero, Nat.add_zero, List.getD_cons_succ, Nat.succ_eq_add_one, Nat.add_assoc,
      Nat.add_comm 1]

/-- R115: one round on the record's fields. -/
theorem sha1Round_eq (t : Nat) (w : U32) (r : Five) :
    sha1Round t w r =
      { a := r.a.rotateLeft 5 + sha1F t r.b r.c r.d + r.e + sha1K t + w
        b := r.a
        c := r.b.rotateLeft 30
        d := r.c
        e := r.d } := by
  rw [BitVec.rotateLeft_def, BitVec.rotateLeft_def]
  rfl

/-- Settles O38: the recursion is the indexed fold, over the schedule's eighty words. -/
theorem sha1BlockIsEightyRounds : Obligations.Sha1BlockIsEightyRounds := by
  intro h blk
  rw [sha1Block, sha1Rounds_eq_foldl, sha1Schedule_length]
  simp only [Nat.zero_add, sha1Round_eq]

theorem slice_drop (p : Bytes) (n i j : Nat) : slice (p.drop n) i j = slice p (n + i) (n + j) := by
  rw [slice, slice, List.drop_drop, Nat.add_sub_add_left]

/-- R116: the blocks of a message, indexed. -/
theorem sha1Blocks_eq_foldl (n : Nat) (h : Five) (p : Bytes) :
    sha1Blocks n h p =
      (List.range n).foldl (fun h j => sha1Block h (slice p (64 * j) (64 * j + 64))) h := by
  induction n generalizing h p with
  | zero => rfl
  | succ n ih =>
    have hnext : ∀ j, 64 * (j + 1) = 64 + 64 * j := by omega
    rw [sha1Blocks, ih, List.range_succ_eq_map, List.foldl_cons, List.foldl_map]
    simp only [slice_drop, Nat.succ_eq_add_one, hnext, Nat.add_assoc]
    rfl

/-- Settles O39. -/
theorem sha1IsFoldOverBlocks : Obligations.Sha1IsFoldOverBlocks := fun _ =>
  congrArg sha1Output (sha1Blocks_eq_foldl _ _ _)

end Sys2Proof.Machine
end

section
/-! PROOF. HMAC (42_sha1_hmac R120 to R123): lengths, and the keys that share a key block. -/

namespace Sys2Proof.Machine

@[simp] theorem sha1_length (msg : Bytes) : (sha1 msg).length = 20 := by
  simp only [sha1, sha1Output, List.length_append, be_length]

@[simp] theorem hmacSha1_length (key msg : Bytes) : (hmacSha1 key msg).length = 20 := sha1_length _

theorem hmacKeyBlock_of_le {key : Bytes} (h : key.length ≤ 64) :
    hmacKeyBlock key = key ++ rep 0x00 (64 - key.length) := if_pos h

theorem hmacKeyBlock_of_lt {key : Bytes} (h : 64 < key.length) :
    hmacKeyBlock key = sha1 key ++ rep 0x00 (64 - 20) := if_neg (Nat.not_le.2 h)

@[simp] theorem hmacKeyBlock_length (key : Bytes) : (hmacKeyBlock key).length = 64 := by
  obtain h | h := Nat.lt_or_ge 64 key.length
  · rw [hmacKeyBlock_of_lt h, List.length_append, sha1_length, rep_length]
  · rw [hmacKeyBlock_of_le h, List.length_append, rep_length, Nat.add_sub_cancel' h]

@[simp] theorem xorPad_length (k0 : Bytes) (pad : Byte) : (xorPad k0 pad).length = k0.length := List.length_map _

/-- Settles O41. -/
theorem digestAndKeyBlockLengths : Obligations.DigestAndKeyBlockLengths := fun key msg =>
  ⟨sha1_length msg, hmacKeyBlock_length key, hmacSha1_length key msg⟩

/-- R122: the key enters through its key block alone. -/
theorem hmacSha1_eq_of_keyBlock {key key' : Bytes} (h : hmacKeyBlock key = hmacKeyBlock key') (msg : Bytes) :
    hmacSha1 key msg = hmacSha1 key' msg := by
  rw [hmacSha1, hmacSha1, h]

/-- R123 (a): zeros that the padding would add anyway. -/
theorem hmacKeyBlock_append_zeros {key : Bytes} {n : Nat} (h : key.length + n ≤ 64) :
    hmacKeyBlock (key ++ rep 0x00 n) = hmacKeyBlock key := by
  have hlength : (key ++ rep 0x00 n).length = key.length + n := by rw [List.length_append, rep_length]
  have hzeros : n + (64 - (key.length + n)) = 64 - key.length := by omega
  rw [hmacKeyBlock_of_le (by omega), hmacKeyBlock_of_le (by omega), hlength, List.append_assoc, rep, rep, rep,
    List.replicate_append_replicate, hzeros]

/-- R123 (b): the digest of a long key is short enough to be its own key. -/
theorem hmacKeyBlock_sha1 {key : Bytes} (h : 64 < key.length) : hmacKeyBlock (sha1 key) = hmacKeyBlock key := by
  rw [hmacKeyBlock_of_lt h, hmacKeyBlock_of_le (by rw [sha1_length]; decide), sha1_length]

/-- Settles O42: equal key blocks give equal digests, and the block counts follow from the lengths 64 + 8 and 64 + 20. -/
theorem hmacKeyEquivalences : Obligations.HmacKeyEquivalences := by
  refine fun key msg => ⟨fun n h => hmacSha1_eq_of_keyBlock (hmacKeyBlock_append_zeros h) msg,
    fun h => hmacSha1_eq_of_keyBlock (hmacKeyBlock_sha1 h) msg, fun hmsg => ⟨?_, ?_⟩⟩
  · rw [sha1Pad_length_blocks, List.length_append, xorPad_length, hmacKeyBlock_length, hmsg]
  · rw [sha1Pad_length_blocks, List.length_append, xorPad_length, hmacKeyBlock_length, sha1_length]

end Sys2Proof.Machine
end

section
/-! PROOF. Dynamic truncation (43_hotp R141 to R145). -/

namespace Sys2Proof.Machine

theorem dtOffset_eq (digest : Bytes) : dtOffset digest = (digest.getD 19 0).toNat % 16 := and_dtNibbleMask _

theorem dtOffset_le (digest : Bytes) : dtOffset digest ≤ 15 := by
  rw [dtOffset_eq]
  omega

theorem toNat_shiftedByte {k : Nat} (hk : k ≤ 24) (x : Byte) : (x.setWidth 32 <<< k : U32).toNat = x.toNat <<< k := by
  have hlt : x.toNat <<< k < 2 ^ 32 := calc
    x.toNat <<< k < 2 ^ (8 + k) := Nat.shiftLeft_lt x.isLt
    _ ≤ 2 ^ 32 := Nat.pow_le_pow_right (by decide) (by omega)
  rw [BitVec.toNat_shiftLeft, BitVec.toNat_setWidth_of_le (by decide), Nat.mod_eq_of_lt hlt]

/-- R9: four bytes shifted into place do not overlap, so their disjunction is the big-endian number. -/
theorem toNat_or_bytes (a b c d : Byte) :
    ((a.setWidth 32 <<< 24) ||| (b.setWidth 32 <<< 16) ||| (c.setWidth 32 <<< 8) ||| d.setWidth 32 : U32).toNat =
      fromBe [a, b, c, d] := by
  have hb := b.isLt
  have hc := c.isLt
  have hd := d.isLt
  rw [BitVec.toNat_or, BitVec.toNat_or, BitVec.toNat_or, toNat_shiftedByte (by decide), toNat_shiftedByte (by decide),
    toNat_shiftedByte (by decide), BitVec.toNat_setWidth_of_le (by decide), Nat.or_assoc, Nat.or_assoc,
    ← Nat.shiftLeft_add_eq_or_of_lt hd c.toNat,
    ← Nat.shiftLeft_add_eq_or_of_lt (i := 16) (by omega) b.toNat,
    ← Nat.shiftLeft_add_eq_or_of_lt (i := 24) (by omega) a.toNat]
  simp only [fromBe, Nat.shiftLeft_eq, List.length_cons, List.length_nil]
  omega

theorem slice_four {p : Bytes} {k : Nat} (h : k + 4 ≤ p.length) :
    slice p k (k + 4) = [p.getD k 0, p.getD (k + 1) 0, p.getD (k + 2) 0, p.getD (k + 3) 0] := by
  have hcut : p.drop k = p[k] :: p[k + 1] :: p[k + 2] :: p[k + 3] :: p.drop (k + 4) := by
    rw [List.drop_eq_getElem_cons (by omega), List.drop_eq_getElem_cons (by omega),
      List.drop_eq_getElem_cons (by omega), List.drop_eq_getElem_cons (by omega)]
  rw [slice, Nat.add_sub_cancel_left, hcut, List.getD_eq_getElem, List.getD_eq_getElem, List.getD_eq_getElem,
    List.getD_eq_getElem]
  rfl

/-- R141: the window read as one number. -/
theorem toNat_dtBinary {digest : Bytes} (h : digest.length = 20) :
    (dtBinary digest).toNat = fromBe (slice digest (dtOffset digest) (dtOffset digest + 4)) := by
  have hoffset := dtOffset_le digest
  rw [slice_four (by omega)]
  exact toNat_or_bytes _ _ _ _

/-- R142: clearing bit 31 is the remainder modulo 2^31. -/
theorem toNat_dt (digest : Bytes) : (dt digest).toNat = (dtBinary digest).toNat % 2 ^ 31 :=
  (BitVec.toNat_and _ _).trans (Nat.and_two_pow_sub_one_eq_mod _ 31)

/-- R142: a signed reading differs by a multiple of 2^32. -/
theorem toNat_dt_signed (digest : Bytes) : ((dt digest).toNat : Int) = (dtBinary digest).toInt % 2 ^ 31 := by
  rw [toNat_dt, BitVec.toInt_eq_toNat_cond]
  split <;> omega

/-- R142: the last byte is read for its low nibble alone, and the window stays before it. -/
theorem dt_concat_congr {front : Bytes} {x y : Byte} (hlength : front.length = 19) (h : x &&& 0x0F = y &&& 0x0F) :
    dt (front ++ [x]) = dt (front ++ [y]) := by
  have hlast : ∀ z : Byte, (front ++ [z]).getD 19 0 = z := fun z => by
    rw [List.getD_append_right _ _ _ _ hlength.le, hlength]
    rfl
  have hoffset : dtOffset (front ++ [x]) = dtOffset (front ++ [y]) := by
    rw [dtOffset, dtOffset, hlast, hlast]
    exact congrArg BitVec.toNat h
  have hbelow := dtOffset_le (front ++ [y])
  have hfront : ∀ k < 19, (front ++ [x]).getD k 0 = (front ++ [y]).getD k 0 := fun k hk => by
    rw [List.getD_append _ _ _ _ (by omega), List.getD_append _ _ _ _ (by omega)]
  rw [dt, dt, dtBinary, dtBinary, hoffset, hfront _ (by omega), hfront _ (by omega), hfront _ (by omega),
    hfront _ (by omega)]

/-- Settles O43. -/
theorem truncationWindowLaw : Obligations.TruncationWindowLaw :=
  ⟨fun digest h => ⟨dtOffset_le digest, Nat.add_le_add_right (dtOffset_le digest) 3, toNat_dtBinary h,
    toNat_dt digest, toNat_dt_signed digest⟩, fun _ _ _ hlength h => dt_concat_congr hlength h⟩

/-- Settles O45: the formatter spells the reduced number, and the digest is long enough for its window. -/
theorem codeIsSixDigitsOfTruncatedDigest : Obligations.CodeIsSixDigitsOfTruncatedDigest := by
  refine fun key counterBytes => ⟨hotp_length key counterBytes, isDigit_of_mem_hotp key counterBytes, ?_⟩
  have hreduced : ∀ v, reduceCode v < 1000000 := fun v => Nat.mod_lt _ (by decide)
  rw [hotp, decimalValue_fmt6 (hreduced _), reduceCode, toNat_dt, toNat_dtBinary (hmacSha1_length _ _)]
  rfl

end Sys2Proof.Machine
end

section
/-! PROOF. The assembler's decimal integers (30_encoding R79) against the keys of 44_timestep R177: a text of digits is read to its
end and gives the number it spells; the sign, or the absence of one, selects the limit of the magnitude. -/

namespace Sys2Proof.Machine

/-- The characters of a byte text. -/
def charsOf (b : Bytes) : List Char := b.map fun x => Char.ofNat x.toNat

theorem toNat_charOfDigit {b : Byte} (h : IsDigit b) : (Char.ofNat b.toNat).toNat = b.toNat := by
  have hvalid : b.toNat.isValidChar := .inl (by omega)
  rw [Char.toNat_ofNat, if_pos hvalid]

theorem decimalDigit_charOfDigit {b : Byte} (h : IsDigit b) :
    decimalDigit (Char.ofNat b.toNat) = some (b.toNat - 48) := by
  rw [decimalDigit, toNat_charOfDigit h, if_pos h]

/-- R79: digits are read to the end of the text, from the left. -/
theorem takeNumber_charsOf {b : Bytes} (h : ∀ x ∈ b, IsDigit x) (count acc : Nat) :
    takeNumber 10 decimalDigit (charsOf b) count acc =
      (count + b.length, b.foldl (fun n x => 10 * n + (x.toNat - 0x30)) acc, []) := by
  induction b generalizing count acc with
  | nil => rfl
  | cons x b ih =>
    obtain ⟨hx, hb⟩ := List.forall_mem_cons.1 h
    have hread : takeNumber 10 decimalDigit (charsOf (x :: b)) count acc =
        takeNumber 10 decimalDigit (charsOf b) (count + 1) (acc * 10 + (x.toNat - 48)) := by
      rw [charsOf, List.map_cons, takeNumber, decimalDigit_charOfDigit hx]
      rfl
    rw [hread, ih hb, List.length_cons, List.foldl_cons, Nat.mul_comm acc, Nat.add_right_comm, Nat.add_assoc]

theorem parseDecimal_shortestText {n limit : Nat} (h : n ≤ limit) :
    parseDecimal limit (charsOf (shortestText n)) = some (n, []) := by
  have hlength : 1 ≤ (shortestText n).length := List.length_pos_iff.2 (shortestText_ne_nil n)
  have hvalue := decimalValue_shortestText n
  rw [decimalValue] at hvalue
  rw [parseDecimal, takeNumber_charsOf (isDigit_of_mem_shortestText n), hvalue, Nat.zero_add]
  exact if_pos ⟨hlength, h⟩

/-- R79: a text of digits alone has neither a sign nor the `0x` of a hexadecimal number. -/
theorem parseInt_of_digits {b : Bytes} (h : ∀ x ∈ b, IsDigit x) :
    parseInt (charsOf b) = (parseDecimal (2 ^ 63 - 1) (charsOf b)).map fun e => (wrap64 (e.1 : Int), e.2) := by
  have hchars : ∀ c ∈ charsOf b, 48 ≤ c.toNat ∧ c.toNat ≤ 57 :=
    List.forall_mem_map.2 fun x hx => by rw [toNat_charOfDigit (h x hx)]; exact h x hx
  unfold parseInt
  split
  · next heq => exact absurd (hchars 'x' (by simp [heq])) (by decide)
  · next heq => exact absurd (hchars '-' (by simp [heq])) (by decide)
  · rfl

theorem parseInt_minus (cs : List Char) :
    parseInt ('-' :: cs) = (parseDecimal (2 ^ 63) cs).map fun e => (wrap64 (-(e.1 : Int)), e.2) := rfl

/-- Settles O13: the magnitude fits the limit on its side of zero, and the sign is put back. -/
theorem assemblerReadsDecimalIntegers : Obligations.AssemblerReadsDecimalIntegers := by
  intro o
  have hlow := o.le_toInt
  have hhigh := o.toInt_lt
  change parseInt (charsOf (decKey o)) = some (o, [])
  rw [decKey_eq]
  split
  · next hneg =>
    have hmagnitude : -(o.toInt.natAbs : Int) = o.toInt := by omega
    have hsign : charsOf (0x2D :: shortestText o.toInt.natAbs) = '-' :: charsOf (shortestText o.toInt.natAbs) := rfl
    rw [hsign, parseInt_minus, parseDecimal_shortestText (by omega), Option.map_some, hmagnitude, wrap64,
      BitVec.ofInt_toInt]
  · next hnonneg =>
    have hmagnitude : (o.toInt.natAbs : Int) = o.toInt := by omega
    rw [parseInt_of_digits (isDigit_of_mem_shortestText _), parseDecimal_shortestText (by omega), Option.map_some,
      hmagnitude, wrap64, BitVec.ofInt_toInt]

end Sys2Proof.Machine
end
